-- ==== Sys2Proof/Word.lean ====
section
/-! DEFINITION. The widths of the values the core handles (00_scope R11, R12, R15; 10_state R30). -/

namespace Sys2Proof

/-- A byte, 8 bits, unsigned (R11). -/
abbrev Byte := BitVec 8

/-- One register-port word (R12, R82) and one command word (R110). -/
abbrev Word := BitVec 32

/-- A length or counter register (R12). -/
abbrev Dword := BitVec 64

/-- A block by its 128-bit value `val(B)`: byte 0 is the most significant byte (R15), so a block's
hexadecimal literal is the spec's own 32-digit string. -/
abbrev Block := BitVec 128

/-- The number of a block register V0..V7 (R31). -/
abbrev VReg := Fin 8

/-- The number of a round-key register RK0..RK9 (R33). -/
abbrev RKReg := Fin 10

/-- The command word's 5-bit immediate index (R112). -/
abbrev Imm := BitVec 5

end Sys2Proof
end

