-- ==== Sys2Proof/Syntax.lean ====
section
/-! DEFINITION. The instructions: one constructor per row of spec/opcode_table.json, with the fields the command uses
(30_encoding R114, R116, R117). A field the command ignores (R118) is no field of its constructor. -/

namespace Sys2Proof

/-- The 23 commands of 30_encoding R114. `len` is the declared byte length LEN: a wrong one is still this command and
fails its LEN check when it runs (R116, R120). -/
inductive Instr where
  | nop
  | gfmul (len : Byte) (d s1 s2 : VReg)
  | sub (len : Byte) (d s1 : VReg)
  | isub (len : Byte) (d s1 : VReg)
  | rstep (len : Byte) (d s1 : VReg)
  | irstep (len : Byte) (d s1 : VReg)
  | lin (len : Byte) (d s1 : VReg)
  | ilin (len : Byte) (d s1 : VReg)
  | xor (len : Byte) (d s1 s2 : VReg)
  | round (len : Byte) (d s1 : VReg) (imm : Imm)
  | iround (len : Byte) (d s1 : VReg) (imm : Imm)
  | enc (len : Byte) (d s1 : VReg)
  | dec (len : Byte) (d s1 : VReg)
  | rkld (len : Byte) (s1 : VReg) (imm : Imm)
  | rkst (d : VReg) (imm : Imm)
  | rcon (d : VReg) (imm : Imm)
  | feistel (len : Byte) (d s1 s2 : VReg) (imm : Imm)
  | expand (len : Byte) (s1 s2 : VReg)
  | cbceStart (len : Byte) (s1 : VReg)
  | cbceBlock (len : Byte) (d s1 : VReg)
  | cbcdStart (len : Byte) (s1 : VReg)
  | cbcdBlock (len : Byte) (d s1 : VReg)
  | cbcAbort
  deriving DecidableEq, Repr

end Sys2Proof
end

