-- ==== Sys2Proof/WellFormed.lean ====
section
/-! DEFINITION. Which terms of `Instr` are instructions: the one check no field's type makes (30_encoding R117). -/

namespace Sys2Proof

/-- ROUND, IROUND, RKLD and RKST require IMM <= 9; every other field value of every command is legal
(30_encoding R112, R117). -/
def Instr.wellFormed : Instr → Bool
  | .round _ _ _ imm => imm.toNat ≤ 9
  | .iround _ _ _ imm => imm.toNat ≤ 9
  | .rkld _ _ imm => imm.toNat ≤ 9
  | .rkst _ imm => imm.toNat ≤ 9
  | .nop => true
  | .gfmul .. => true
  | .sub .. => true
  | .isub .. => true
  | .rstep .. => true
  | .irstep .. => true
  | .lin .. => true
  | .ilin .. => true
  | .xor .. => true
  | .enc .. => true
  | .dec .. => true
  | .rcon .. => true
  | .feistel .. => true
  | .expand .. => true
  | .cbceStart .. => true
  | .cbceBlock .. => true
  | .cbcdStart .. => true
  | .cbcdBlock .. => true
  | .cbcAbort => true

end Sys2Proof
end

