-- ==== Sys2Proof/Decode.lean ====
section
/-! DEFINITION. The command decoder and the encoder (30_encoding R110 to R124), and the opcode table's rows. -/

namespace Sys2Proof

/-! ## Fields of the command word (R111) -/

/-- A 3-bit register field names V0..V7 (R112). -/
def regOfField (x : BitVec 3) : VReg := ⟨x.toNat, x.isLt⟩

/-- The 3-bit field that names a register (R112). -/
def fieldOfReg (r : VReg) : BitVec 3 := BitVec.ofNat 3 r.val

/-- OP, bits 7:0 (R111). -/
def fieldOp (w : Word) : Byte := w.extractLsb' 0 8

/-- LEN, bits 15:8 (R111). -/
def fieldLen (w : Word) : Byte := w.extractLsb' 8 8

/-- D, bits 18:16 (R111). -/
def fieldD (w : Word) : VReg := regOfField (w.extractLsb' 16 3)

/-- S1, bits 22:20 (R111). -/
def fieldS1 (w : Word) : VReg := regOfField (w.extractLsb' 20 3)

/-- S2, bits 26:24 (R111). -/
def fieldS2 (w : Word) : VReg := regOfField (w.extractLsb' 24 3)

/-- IMM, bits 31:27 (R111). -/
def fieldImm (w : Word) : Imm := w.extractLsb' 27 5

/-- Bits 19 and 23 are reserved and must be 0 (R113). -/
def reservedBitSet (w : Word) : Bool := w.getLsbD 19 || w.getLsbD 23

/-! ## The decoder (R120, its first three checks) -/

/-- Why a word is no command. Each one makes the command fail with IllegalCommand (R113, R115, R117). -/
inductive DecodeError where
  /-- Bit 19 or 23 is set (R113). -/
  | reservedBit
  /-- OP is not in R114 (R115). -/
  | reservedOpcode
  /-- IMM > 9 on ROUND, IROUND, RKLD or RKST (R117). -/
  | roundKeyIndex
  deriving DecidableEq, Repr

/-- The third check of R120, made for the four commands whose IMM is a round-key index. -/
def checkRoundKeyIndex (w : Word) (i : Instr) : Except DecodeError Instr :=
  if (fieldImm w).toNat > 9 then .error .roundKeyIndex else .ok i

/-- The command whose opcode is OP (R114), its fields taken from the word; LEN is kept, not checked (R120, R124). -/
def decodeOpcode (w : Word) : Except DecodeError Instr :=
  match (fieldOp w).toNat with
  | 0x00 => .ok .nop
  | 0x01 => .ok (.gfmul (fieldLen w) (fieldD w) (fieldS1 w) (fieldS2 w))
  | 0x02 => .ok (.sub (fieldLen w) (fieldD w) (fieldS1 w))
  | 0x03 => .ok (.isub (fieldLen w) (fieldD w) (fieldS1 w))
  | 0x04 => .ok (.rstep (fieldLen w) (fieldD w) (fieldS1 w))
  | 0x05 => .ok (.irstep (fieldLen w) (fieldD w) (fieldS1 w))
  | 0x06 => .ok (.lin (fieldLen w) (fieldD w) (fieldS1 w))
  | 0x07 => .ok (.ilin (fieldLen w) (fieldD w) (fieldS1 w))
  | 0x08 => .ok (.xor (fieldLen w) (fieldD w) (fieldS1 w) (fieldS2 w))
  | 0x10 => checkRoundKeyIndex w (.round (fieldLen w) (fieldD w) (fieldS1 w) (fieldImm w))
  | 0x11 => checkRoundKeyIndex w (.iround (fieldLen w) (fieldD w) (fieldS1 w) (fieldImm w))
  | 0x12 => .ok (.enc (fieldLen w) (fieldD w) (fieldS1 w))
  | 0x13 => .ok (.dec (fieldLen w) (fieldD w) (fieldS1 w))
  | 0x14 => checkRoundKeyIndex w (.rkld (fieldLen w) (fieldS1 w) (fieldImm w))
  | 0x15 => checkRoundKeyIndex w (.rkst (fieldD w) (fieldImm w))
  | 0x18 => .ok (.rcon (fieldD w) (fieldImm w))
  | 0x19 => .ok (.feistel (fieldLen w) (fieldD w) (fieldS1 w) (fieldS2 w) (fieldImm w))
  | 0x1A => .ok (.expand (fieldLen w) (fieldS1 w) (fieldS2 w))
  | 0x20 => .ok (.cbceStart (fieldLen w) (fieldS1 w))
  | 0x21 => .ok (.cbceBlock (fieldLen w) (fieldD w) (fieldS1 w))
  | 0x22 => .ok (.cbcdStart (fieldLen w) (fieldS1 w))
  | 0x23 => .ok (.cbcdBlock (fieldLen w) (fieldD w) (fieldS1 w))
  | 0x24 => .ok .cbcAbort
  | _ => .error .reservedOpcode

/-- The decoder, total on every word (R119): reserved bits first, then the opcode, then IMM (R120). -/
def decode (w : Word) : Except DecodeError Instr :=
  if reservedBitSet w then .error .reservedBit else decodeOpcode w

/-- What the decoder reads from an instruction given as the opcode table numbers its bits: the table's rows are one
32-bit command word (R110), which may be listed by fewer bits, the others 0; more than 32 bits are no command. -/
def decodeTableWord (nbits w : Nat) : Option Instr :=
  if nbits ≤ 32 then (decode (BitVec.ofNat 32 (w % 2 ^ nbits))).toOption else none

/-! ## The encoder (R124) -/

/-- The word of the fields (R124, laid out as R111 draws it, most significant field first). -/
def packFields (op len : Byte) (d s1 s2 : VReg) (imm : Imm) : Word :=
  imm ++ fieldOfReg s2 ++ 0#1 ++ fieldOfReg s1 ++ 0#1 ++ fieldOfReg d ++ len ++ op

/-- The opcodes of R114. -/
def Instr.opcode : Instr → Byte
  | .nop => 0x00#8
  | .gfmul .. => 0x01#8
  | .sub .. => 0x02#8
  | .isub .. => 0x03#8
  | .rstep .. => 0x04#8
  | .irstep .. => 0x05#8
  | .lin .. => 0x06#8
  | .ilin .. => 0x07#8
  | .xor .. => 0x08#8
  | .round .. => 0x10#8
  | .iround .. => 0x11#8
  | .enc .. => 0x12#8
  | .dec .. => 0x13#8
  | .rkld .. => 0x14#8
  | .rkst .. => 0x15#8
  | .rcon .. => 0x18#8
  | .feistel .. => 0x19#8
  | .expand .. => 0x1A#8
  | .cbceStart .. => 0x20#8
  | .cbceBlock .. => 0x21#8
  | .cbcdStart .. => 0x22#8
  | .cbcdBlock .. => 0x23#8
  | .cbcAbort => 0x24#8

/-- The command word the assembler of R121 makes: unused fields 0 (R121), LEN 0 where it is ignored. -/
def encode (i : Instr) : Word :=
  match i with
  | .nop => packFields i.opcode 0 0 0 0 0
  | .gfmul len d s1 s2 => packFields i.opcode len d s1 s2 0
  | .sub len d s1 => packFields i.opcode len d s1 0 0
  | .isub len d s1 => packFields i.opcode len d s1 0 0
  | .rstep len d s1 => packFields i.opcode len d s1 0 0
  | .irstep len d s1 => packFields i.opcode len d s1 0 0
  | .lin len d s1 => packFields i.opcode len d s1 0 0
  | .ilin len d s1 => packFields i.opcode len d s1 0 0
  | .xor len d s1 s2 => packFields i.opcode len d s1 s2 0
  | .round len d s1 imm => packFields i.opcode len d s1 0 imm
  | .iround len d s1 imm => packFields i.opcode len d s1 0 imm
  | .enc len d s1 => packFields i.opcode len d s1 0 0
  | .dec len d s1 => packFields i.opcode len d s1 0 0
  | .rkld len s1 imm => packFields i.opcode len 0 s1 0 imm
  | .rkst d imm => packFields i.opcode 0 d 0 0 imm
  | .rcon d imm => packFields i.opcode 0 d 0 0 imm
  | .feistel len d s1 s2 imm => packFields i.opcode len d s1 s2 imm
  | .expand len s1 s2 => packFields i.opcode len 0 s1 s2 0
  | .cbceStart len s1 => packFields i.opcode len 0 s1 0 0
  | .cbceBlock len d s1 => packFields i.opcode len d s1 0 0
  | .cbcdStart len s1 => packFields i.opcode len 0 s1 0 0
  | .cbcdBlock len d s1 => packFields i.opcode len d s1 0 0
  | .cbcAbort => packFields i.opcode 0 0 0 0 0

/-! ## The opcode table (R114, R124) -/

/-- The instruction's name in spec/opcode_table.json. -/
def Instr.mnemonic : Instr → String
  | .nop => "NOP"
  | .gfmul .. => "GFMUL"
  | .sub .. => "SUB"
  | .isub .. => "ISUB"
  | .rstep .. => "RSTEP"
  | .irstep .. => "IRSTEP"
  | .lin .. => "LIN"
  | .ilin .. => "ILIN"
  | .xor .. => "XOR"
  | .round .. => "ROUND"
  | .iround .. => "IROUND"
  | .enc .. => "ENC"
  | .dec .. => "DEC"
  | .rkld .. => "RKLD"
  | .rkst .. => "RKST"
  | .rcon .. => "RCON"
  | .feistel .. => "FEISTEL"
  | .expand .. => "EXPAND"
  | .cbceStart .. => "CBCE_START"
  | .cbceBlock .. => "CBCE_BLOCK"
  | .cbcdStart .. => "CBCD_START"
  | .cbcdBlock .. => "CBCD_BLOCK"
  | .cbcAbort => "CBC_ABORT"

/-- One row of spec/opcode_table.json: a word is the row's legal command when `w AND mask = pattern` (R124). -/
structure OpcodeRow where
  mnemonic : String
  mask : Word
  pattern : Word
  deriving DecidableEq, Repr

/-- The mask of a command whose LEN is checked (R124). -/
def maskWithLen : Word := 0x0088FFFF#32

/-- The mask of a command that ignores LEN (R124). -/
def maskWithoutLen : Word := 0x008800FF#32

/-- The rows of spec/opcode_table.json, in its order. -/
def opcodeRows : List OpcodeRow :=
  [⟨"NOP", maskWithoutLen, 0x00000000#32⟩, ⟨"GFMUL", maskWithLen, 0x00001001#32⟩,
   ⟨"SUB", maskWithLen, 0x00001002#32⟩, ⟨"ISUB", maskWithLen, 0x00001003#32⟩,
   ⟨"RSTEP", maskWithLen, 0x00001004#32⟩, ⟨"IRSTEP", maskWithLen, 0x00001005#32⟩,
   ⟨"LIN", maskWithLen, 0x00001006#32⟩, ⟨"ILIN", maskWithLen, 0x00001007#32⟩,
   ⟨"XOR", maskWithLen, 0x00001008#32⟩, ⟨"ROUND", maskWithLen, 0x00001010#32⟩,
   ⟨"IROUND", maskWithLen, 0x00001011#32⟩, ⟨"ENC", maskWithLen, 0x00001012#32⟩,
   ⟨"DEC", maskWithLen, 0x00001013#32⟩, ⟨"RKLD", maskWithLen, 0x00001014#32⟩,
   ⟨"RKST", maskWithoutLen, 0x00000015#32⟩, ⟨"RCON", maskWithoutLen, 0x00000018#32⟩,
   ⟨"FEISTEL", maskWithLen, 0x00001019#32⟩, ⟨"EXPAND", maskWithLen, 0x0000201A#32⟩,
   ⟨"CBCE_START", maskWithLen, 0x00001020#32⟩, ⟨"CBCE_BLOCK", maskWithLen, 0x00001021#32⟩,
   ⟨"CBCD_START", maskWithLen, 0x00001022#32⟩, ⟨"CBCD_BLOCK", maskWithLen, 0x00001023#32⟩,
   ⟨"CBC_ABORT", maskWithoutLen, 0x00000024#32⟩]

end Sys2Proof
end

