-- ==== Sys2Proof/Machine/Bytes.lean ====
section
/-! DEFINITION. The bytes and words of a block and the halves of a 64-bit register (00_scope R15; 20_memory R85, R88). -/

namespace Sys2Proof.Machine

/-- Byte j of a block: bits 8*(15-j)+7 : 8*(15-j) of its value (20_memory R88). -/
def blockByte (b : Block) (j : Nat) : Byte := b.extractLsb' (8 * (15 - j)) 8

/-- The value of the n bytes f 0, ..., f (n-1), f 0 the most significant (00_scope R15). -/
def packBytes (f : Nat → Byte) : Nat → Block
  | 0 => 0
  | n + 1 => (packBytes f n <<< 8) ||| (f n).setWidth 128

/-- The block whose byte j is f j (00_scope R15). -/
def blockOfBytes (f : Nat → Byte) : Block := packBytes f 16

/-- Byte m of a 32-bit word, m = 0..3, byte 0 in bits 31:24 (20_memory R85). -/
def wordByte (w : Word) (m : Nat) : Byte := w.extractLsb' (8 * (3 - m)) 8

/-- The four bytes of a word, the most significant first (20_memory R85, 44 R231). -/
def wordBytes (w : Word) : List Byte := [wordByte w 0, wordByte w 1, wordByte w 2, wordByte w 3]

/-- Word k of a block: bytes 4k to 4k+3, the lowest-numbered in the high bits (20_memory R85). -/
def blockWord (b : Block) (k : Fin 4) : Word :=
  blockByte b (4 * k.val) ++ blockByte b (4 * k.val + 1) ++ blockByte b (4 * k.val + 2) ++ blockByte b (4 * k.val + 3)

/-- The block with word k replaced, the other 12 bytes unchanged (20_memory R85). -/
def setBlockWord (b : Block) (k : Fin 4) (w : Word) : Block :=
  blockOfBytes fun j => if j / 4 = k.val then wordByte w (j % 4) else blockByte b j

/-- Bits 63:32 of a 64-bit register (10_state R39). -/
def hiWord (x : Dword) : Word := x.extractLsb' 32 32

/-- Bits 31:0 of a 64-bit register (10_state R39). -/
def loWord (x : Dword) : Word := x.extractLsb' 0 32

/-- A write of the HI word replaces those 32 bits only (20_memory R86). -/
def setHiWord (x : Dword) (w : Word) : Dword := w ++ loWord x

/-- A write of the LO word replaces those 32 bits only (20_memory R86). -/
def setLoWord (x : Dword) (w : Word) : Dword := hiWord x ++ w

end Sys2Proof.Machine
end

