-- ==== Sys2Proof/Machine/State.lean ====
section
/-! DEFINITION. The state of one core instance (10_state), with the environment's turns, and the state after reset. -/

namespace Sys2Proof.Machine

/-- STATUS.MODE, the state of the CBC chaining controller; the value 3 is never held (10_state R44). -/
inductive Mode where
  /-- 0: no stream is open. -/
  | idle
  /-- 1: an encryption stream is open. -/
  | enc
  /-- 2: a decryption stream is open. -/
  | dec
  deriving DecidableEq, Repr

/-- The error codes of 60_exceptions R270; 8..255 are never produced. -/
inductive ErrCode where
  | ok
  | invalidBlockSize
  | invalidKeySize
  | frameTooShort
  | truncatedCiphertext
  | illegalCommand
  | sequenceError
  /-- Code 7, reserved: this core never raises it (R270). -/
  | invalidInputLength
  deriving DecidableEq, Repr

/-- The fields of STATUS (10_state R42). Its reserved bits read 0 and hold nothing. -/
structure Status where
  /-- 1 = a command is executing (R43). -/
  busy : Bool
  /-- 1 = a command has completed since DONE was last cleared (R45). -/
  done : Bool
  /-- 1 = a host write was dropped because BUSY = 1 (R46). -/
  wovr : Bool
  /-- The stream mode (R44). -/
  mode : Mode
  /-- The valid byte count of the last CBC block result, 0..16 (R47). -/
  valid : BitVec 5
  /-- The error code of the last completed command (R48). -/
  err : ErrCode
  deriving DecidableEq, Repr

/-- The fields of CTRL (10_state R41). -/
structure Ctrl where
  /-- Interrupt enable. -/
  ie : Bool
  deriving DecidableEq, Repr

/-- The registers of the window (20_memory R84). -/
inductive WindowReg where
  | id
  | ctrl
  | status
  | cmd
  | slenHi
  | slenLo
  | flenHi
  | flenLo
  | remainHi
  | remainLo
  | nblkHi
  | nblkLo
  /-- Word k of V[n]. -/
  | v (n : VReg) (k : Fin 4)
  /-- An offset that names no register (R83). -/
  | reserved
  deriving DecidableEq, Repr

/-- A register-port transaction, at a byte offset (20_memory R82). -/
inductive Access where
  | read (off : Byte)
  | write (off : Byte) (w : Word)
  deriving DecidableEq, Repr

/-- Who acts next: the sequencer completes the executing command (30_encoding R126), a host makes an access
(20_memory R92, R96), or the reset input changes (70_reset R300). -/
inductive Turn where
  | sequencer
  | host (a : Access)
  | assertReset
  | releaseReset
  deriving DecidableEq, Repr

/-- The architectural state of one core instance (10_state R30) and, last, the model's own fields (log 2, log 4).
ID is a constant and IRQ a function of `ctrl` and `status` (log 6). -/
structure State where
  /-- V0..V7 (R31). -/
  v : Vector Block 8
  /-- RK0..RK9 (R33). -/
  rk : Vector Block 10
  /-- FB (R34). -/
  fb : Block
  /-- SLEN (R35). -/
  slen : Dword
  /-- FLEN (R36). -/
  flen : Dword
  /-- REMAIN (R37). -/
  remain : Dword
  /-- NBLK (R38). -/
  nblk : Dword
  /-- CTRL (R41). -/
  ctrl : Ctrl
  /-- STATUS (R42). -/
  status : Status
  /-- CMD (R49). -/
  cmd : Word
  /-- The level of rst_n: false while reset is asserted (70_reset R300). -/
  rstN : Bool
  /-- MODEL: the turns to come, the next one first; the order the spec leaves open (log 2). -/
  agenda : List Turn
  /-- MODEL: the words the port returned to the host, the latest first (log 4). -/
  reads : List Word
  /-- MODEL: how many free values have been drawn (log 4). -/
  draws : Nat
  deriving DecidableEq, Repr

/-- Nothing stops this machine: every word completes, with an error code at worst (30_encoding R119, R126), and
"No condition is treated as fatal inside the core" (60_exceptions R277). So no fault has a constructor (log 13). -/
inductive Fault where
  deriving DecidableEq, Repr

/-- The reasons a step can have no meaning. -/
inductive Refusal where
  /-- Raised by an arm of `exec` whose instruction has no meaning yet. Safe: the run stops. No arm raises it now. -/
  | notModelled (mnemonic : String)
  deriving DecidableEq, Repr

/-- STATUS after reset is 0x00000000 (10_state R55). -/
def Status.reset : Status :=
  { busy := false, done := false, wovr := false, mode := .idle, valid := 0, err := .ok }

/-- The state when reset is released (10_state R55, 70_reset R300). V, RK and FB are unspecified: they hold the draws
number `n` to `n + 18`, one a register, which stay until written (93 section 1; log 1). -/
def State.resetFrom (n : Nat) : State :=
  { v := Vector.ofFn fun i : Fin 8 => Config.freeBlock (n + i.val)
    rk := Vector.ofFn fun i : Fin 10 => Config.freeBlock (n + 8 + i.val)
    fb := Config.freeBlock (n + 18)
    slen := 0
    flen := 0
    remain := 0
    nblk := 0
    ctrl := { ie := false }
    status := Status.reset
    cmd := 0
    rstN := true
    agenda := []
    reads := []
    draws := n + 19 }

/-- The machine right after reset (10_state R55): idle, waiting for the host's first access (70_reset R301). -/
def State.reset : State := State.resetFrom 0

end Sys2Proof.Machine
end

