-- ==== Sys2Proof/Machine/Flags.lean ====
section
/-! DEFINITION. The STATUS and CTRL words, their write rules, the VALID count and the interrupt output
(10_state R41 to R50). The core has no other flags (R52). -/

namespace Sys2Proof.Machine

/-- MODE's two bits (10_state R42, R44). -/
def Mode.code : Mode → BitVec 2
  | .idle => 0
  | .enc => 1
  | .dec => 2

/-- The codes of 60_exceptions R270. -/
def ErrCode.code : ErrCode → Byte
  | .ok => 0
  | .invalidBlockSize => 1
  | .invalidKeySize => 2
  | .frameTooShort => 3
  | .truncatedCiphertext => 4
  | .illegalCommand => 5
  | .sequenceError => 6
  | .invalidInputLength => 7

/-- The STATUS word: reserved 31:24, ERR 23:16, reserved 15:13, VALID 12:8, reserved 7:6, MODE 5:4, reserved 3,
WOVR 2, DONE 1, BUSY 0 (10_state R42). -/
def Status.toWord (st : Status) : Word :=
  0#8 ++ st.err.code ++ 0#3 ++ st.valid ++ 0#2 ++ st.mode.code ++ 0#1 ++ BitVec.ofBool st.wovr ++ BitVec.ofBool st.done
    ++ BitVec.ofBool st.busy

/-- A host write to STATUS clears DONE and WOVR where the written bit is 1, and changes nothing else (10_state R42). -/
def Status.writeOneToClear (st : Status) (w : Word) : Status :=
  { st with done := st.done && !w.getLsbD 1, wovr := st.wovr && !w.getLsbD 2 }

/-- The CTRL word: IE in bit 0, the rest read 0 (10_state R41). -/
def Ctrl.toWord (c : Ctrl) : Word := 0#31 ++ BitVec.ofBool c.ie

/-- A host write to CTRL sets IE; the reserved bits ignore it (10_state R41). -/
def Ctrl.ofWord (w : Word) : Ctrl := { ie := w.getLsbD 0 }

/-- IRQ = CTRL.IE AND STATUS.DONE, a level (10_state R50). -/
def State.irq (s : State) : Bool := s.ctrl.ie && s.status.done

/-- min(16, REMAIN), the count of a block's bytes that belong to the plaintext (10_state R47, 44 R237). -/
def validCount (remain : Dword) : BitVec 5 := if remain.toNat < 16 then remain.setWidth 5 else 16

end Sys2Proof.Machine
end

