-- ==== Sys2Proof/Machine/Ops.lean ====
section
/-! DEFINITION. The named operations over the state: registers, the command life cycle, errors, streams, the port's
reads and the reset. -/

namespace Sys2Proof.Machine

/-- The result of a meaning. -/
abbrev Result := Host.Outcome State Fault Refusal

/-! ## Registers -/

/-- V[n] (00_scope R16). -/
def State.readV (s : State) (n : VReg) : Block := s.v[n.val]

/-- V[n] <- b (00_scope R16). -/
def State.writeV (s : State) (n : VReg) (b : Block) : State := { s with v := s.v.set n.val b }

/-- RK[i] (00_scope R16). -/
def State.readRK (s : State) (i : RKReg) : Block := s.rk[i.val]

/-- RK[i] <- b (00_scope R16). -/
def State.writeRK (s : State) (i : RKReg) (b : Block) : State := { s with rk := s.rk.set i.val b }

/-- RK0..RK9, all written at once (43 R216). -/
def State.writeSchedule (s : State) (k : Vector Block 10) : State := { s with rk := k }

/-- FB <- b (00_scope R16). -/
def State.writeFB (s : State) (b : Block) : State := { s with fb := b }

/-! ## The command life cycle (30_encoding R125, R126) and errors (60_exceptions R276) -/

/-- The port accepts a CMD write: CMD <- w, BUSY <- 1, DONE <- 0, one atomic step (R125). -/
def State.issue (s : State) (w : Word) : State :=
  { s with cmd := w, status := { s.status with busy := true, done := false } }

/-- The last writes of every completion: ERR <- code, DONE <- 1, BUSY <- 0 (R126). -/
def State.complete (s : State) (code : ErrCode) : State :=
  { s with status := { s.status with err := code, done := true, busy := false } }

/-- A command succeeds: its writes stand, and ERR <- 0 (R126). -/
def succeed (s : State) : Result := .next (s.complete .ok)

/-- `raise Error(code)`: the core's exception. None of the command's writes takes effect; ERR <- code, DONE <- 1,
BUSY <- 0. No pc is saved and control goes nowhere: the host reads STATUS (60 R276). -/
def raiseError (code : ErrCode) (s : State) : Result := .next (s.complete code)

/-- The host's acknowledgement, the nearest thing to a return from an error (60 R277): a STATUS write, W1C. -/
def State.acknowledge (s : State) (w : Word) : State := { s with status := s.status.writeOneToClear w }

/-- A write the port drops because BUSY = 1 sets WOVR and changes nothing else (20_memory R87). -/
def State.overrun (s : State) : State := { s with status := { s.status with wovr := true } }

/-! ## Host-written registers -/

/-- CTRL <- w (10_state R41). -/
def State.writeCtrl (s : State) (w : Word) : State := { s with ctrl := Ctrl.ofWord w }

/-- SLEN <- x. -/
def State.writeSlen (s : State) (x : Dword) : State := { s with slen := x }

/-- FLEN <- x. -/
def State.writeFlen (s : State) (x : Dword) : State := { s with flen := x }

/-- The port returns w to the host. -/
def State.returnWord (s : State) (w : Word) : State := { s with reads := w :: s.reads }

/-- The port returns a word the spec leaves unspecified: a fresh draw (20_memory R87, 93 section 1; log 3). -/
def State.returnDraw (s : State) : State :=
  { s with reads := Config.freeWord s.draws :: s.reads, draws := s.draws + 1 }

/-! ## Streams (44) -/

/-- The mode with n blocks left in a stream of mode m: IDLE when none is (44 R232, R233, R236, R237). -/
def modeWithBlocks (m : Mode) (n : Dword) : Mode := if n = 0 then .idle else m

/-- A START: FB <- IV, REMAIN <- SLEN, NBLK <- n, MODE <- (m if n > 0 else IDLE) (44 R232, R236). -/
def State.openStream (s : State) (m : Mode) (iv : Block) (n : Dword) : State :=
  { s with
    fb := iv
    remain := s.slen
    nblk := n
    status := { s.status with mode := modeWithBlocks m n } }

/-- A block command's bookkeeping: VALID <- valid, REMAIN <- REMAIN - min(16, REMAIN), NBLK <- NBLK - 1, and MODE <- IDLE
when NBLK reaches 0 (44 R233, R237). NBLK is not 0 before it in any run (log 11). -/
def State.advanceStream (s : State) (valid : BitVec 5) : State :=
  { s with
    remain := s.remain - (validCount s.remain).setWidth 64
    nblk := s.nblk - 1
    status := { s.status with
      valid := valid
      mode := modeWithBlocks s.status.mode (s.nblk - 1) } }

/-- MODE <- IDLE, NBLK <- 0, REMAIN <- 0 (44 R238). -/
def State.closeStream (s : State) : State :=
  { s with remain := 0, nblk := 0, status := { s.status with mode := .idle } }

/-! ## Turns and reset -/

/-- The environment's next turn is taken off the agenda (log 2). -/
def State.withAgenda (s : State) (turns : List Turn) : State := { s with agenda := turns }

/-- Reset is asserted: the port accepts nothing from now on, and an executing command is abandoned (70_reset R300).
The other registers wait for the release (log 9). -/
def State.assertReset (s : State) : State :=
  { s with rstN := false, status := { s.status with busy := false } }

/-- Reset is released: every piece of state holds its reset value (70_reset R300), V, RK and FB fresh draws. The
environment's turns and what the host has read so far are not the core's to reset. -/
def State.releaseReset (s : State) : State :=
  { State.resetFrom s.draws with agenda := s.agenda, reads := s.reads }

end Sys2Proof.Machine
end

