-- ==== Sys2Proof/Machine/Operands.lean ====
section
/-! DEFINITION. The operand checks every command shares (30_encoding R116, R117, R120) and the register window's
offsets (20_memory R82 to R84). -/

namespace Sys2Proof.Machine

/-- The LEN check of the block commands: LEN must be 16 (30_encoding R116). -/
def withBlockLen (len : Byte) (s : State) (k : Result) : Result :=
  if len = 16#8 then k else raiseError .invalidBlockSize s

/-- The LEN check of EXPAND: LEN must be 32 (30_encoding R116). -/
def withKeyLen (len : Byte) (s : State) (k : Result) : Result :=
  if len = 32#8 then k else raiseError .invalidKeySize s

/-- IMM as a round-key index: 0..9, or IllegalCommand (30_encoding R117; log 15). -/
def withRoundKey (imm : Imm) (s : State) (k : RKReg → Result) : Result :=
  if h : imm.toNat < 10 then k ⟨imm.toNat, h⟩ else raiseError .illegalCommand s

/-- The sequence check of the CBC block commands (44 R233, R237). -/
def withMode (m : Mode) (s : State) (k : Result) : Result :=
  if s.status.mode = m then k else raiseError .sequenceError s

/-- The register at the word offset `4 * n` (20_memory R84). -/
def windowRegOfIndex (n : Nat) : WindowReg :=
  match n with
  | 0 => .id
  | 1 => .ctrl
  | 2 => .status
  | 3 => .cmd
  | 4 => .slenHi
  | 5 => .slenLo
  | 6 => .flenHi
  | 7 => .flenLo
  | 8 => .remainHi
  | 9 => .remainLo
  | 10 => .nblkHi
  | 11 => .nblkLo
  | n =>
    if 16 ≤ n ∧ n < 48 then
      .v ⟨(n - 16) / 4 % 8, Nat.mod_lt _ (by decide)⟩ ⟨(n - 16) % 4, Nat.mod_lt _ (by decide)⟩
    else .reserved

/-- The register an access at `off` acts on: bits 1:0 are ignored (20_memory R82, R84, R89). -/
def windowReg (off : Byte) : WindowReg := windowRegOfIndex (off.toNat / 4)

/-- The registers whose value a host read sees is unspecified while BUSY = 1 (20_memory R87). -/
def WindowReg.unspecifiedWhileBusy : WindowReg → Bool
  | .v _ _ => true
  | .remainHi => true
  | .remainLo => true
  | .nblkHi => true
  | .nblkLo => true
  | _ => false

/-- The registers a host write reaches while BUSY = 1 (20_memory R87). -/
def WindowReg.writableWhileBusy : WindowReg → Bool
  | .ctrl => true
  | .status => true
  | _ => false

end Sys2Proof.Machine
end

