-- ==== Sys2Proof/Machine/GfMultiply.lean ====
section
/-! DEFINITION. The GF(2^8) multiplier and GFMUL (40_gf_multiply). -/

namespace Sys2Proof.Machine

/-- One left shift of `a`, reduced by XOR with 0xC3 when the bit shifted out was 1 (40 R151). -/
def gfShift (a : Byte) : Byte := if a.getLsbD 7 then (a <<< 1) ^^^ 0xC3#8 else a <<< 1

/-- The loop of 40 R151, `n` iterations left, with its variables a, b and r. -/
def gfmulLoop : Nat → Byte → Byte → Byte → Byte
  | 0, _, _, r => r
  | n + 1, a, b, r => gfmulLoop n (gfShift a) (b >>> 1) (if b.getLsbD 0 then r ^^^ a else r)

/-- `gfmul(a, b)`, the source's `multiply`: 8 iterations from r = 0 (40 R151). -/
def gfmul (a b : Byte) : Byte := gfmulLoop 8 a b 0

/-- The 16 lanes of GFMUL: byte j is gfmul(A[j], B[j]) (40 R152). -/
def gfmulLanes (a b : Block) : Block := blockOfBytes fun j => gfmul (blockByte a j) (blockByte b j)

/-- GFMUL (40 R152). -/
def execGfmul (len : Byte) (d s1 s2 : VReg) (s : State) : Result :=
  withBlockLen len s (succeed (s.writeV d (gfmulLanes (s.readV s1) (s.readV s2))))

end Sys2Proof.Machine
end

