-- ==== Sys2Proof/Machine/BlockTransforms.lean ====
section
/-! DEFINITION. The substitution ROM, the linear diffusion and their commands (41_block_transforms). The functions take
the ROM contents as a parameter (00_scope R13), and so does each command, as exec…With; its plain name is the command at
the default contents. -/

namespace Sys2Proof.Machine

/-! ## Functions -/

/-- The largest byte below `n` that `f` maps to `x`, 0 if there is none. -/
def preimageBelow (f : Byte → Byte) (x : Byte) : Nat → Byte
  | 0 => 0
  | n + 1 => if f (BitVec.ofNat 8 n) = x then BitVec.ofNat 8 n else preimageBelow f x n

/-- PI_INV, the inverse of PI: PI_INV[PI[x]] = x (41 R162). -/
def piInv (rom : Rom) (x : Byte) : Byte := preimageBelow rom.pi x 256

/-- S, the source's `substitute` (41 R163). -/
def substitute (rom : Rom) (b : Block) : Block := blockOfBytes fun j => rom.pi (blockByte b j)

/-- S_inv, the source's `inverseSubstitute` (41 R163). -/
def inverseSubstitute (rom : Rom) (b : Block) : Block := blockOfBytes fun j => piInv rom (blockByte b j)

/-- The XOR over i = 0..n-1 of f i. -/
def xorBelow (f : Nat → Byte) : Nat → Byte
  | 0 => 0
  | n + 1 => xorBelow f n ^^^ f n

/-- R, the source's `diffuseStep`: byte 0 becomes the feedback XOR over i = 0..15 of gfmul(B[i], LCOEF[i]), and byte i
moves to i+1 (41 R165; 90 C1). -/
def diffuseStep (rom : Rom) (b : Block) : Block :=
  blockOfBytes fun j =>
    if j = 0 then xorBelow (fun i => gfmul (blockByte b i) (rom.lcoef i)) 16 else blockByte b (j - 1)

/-- R_inv, the source's `inverseDiffuseStep`: byte i+1 moves to i, and byte 15 becomes B[0] XOR the XOR over i = 0..14 of
gfmul(B[i+1], LCOEF[i]) (41 R166; 90 C2). -/
def inverseDiffuseStep (rom : Rom) (b : Block) : Block :=
  blockOfBytes fun j =>
    if j = 15 then blockByte b 0 ^^^ xorBelow (fun i => gfmul (blockByte b (i + 1)) (rom.lcoef i)) 15
    else blockByte b (j + 1)

/-- f applied n times. -/
def repeatBlock (f : Block → Block) : Nat → Block → Block
  | 0, b => b
  | n + 1, b => f (repeatBlock f n b)

/-- L, the source's `diffuse`: R applied 16 times (41 R167). -/
def diffuse (rom : Rom) (b : Block) : Block := repeatBlock (diffuseStep rom) 16 b

/-- L_inv, the source's `inverseDiffuse`: R_inv applied 16 times (41 R168). -/
def inverseDiffuse (rom : Rom) (b : Block) : Block := repeatBlock (inverseDiffuseStep rom) 16 b

/-! ## Commands (41 section 3) -/

/-- SUB (41 R170). -/
def execSubWith (rom : Rom) (len : Byte) (d s1 : VReg) (s : State) : Result :=
  withBlockLen len s (succeed (s.writeV d (substitute rom (s.readV s1))))

/-- The (41 R170) at the ROMs' default contents. -/
def execSub (len : Byte) (d s1 : VReg) (s : State) : Result := execSubWith Config.rom len d s1 s

/-- ISUB (41 R171). -/
def execIsubWith (rom : Rom) (len : Byte) (d s1 : VReg) (s : State) : Result :=
  withBlockLen len s (succeed (s.writeV d (inverseSubstitute rom (s.readV s1))))

/-- The (41 R171) at the ROMs' default contents. -/
def execIsub (len : Byte) (d s1 : VReg) (s : State) : Result := execIsubWith Config.rom len d s1 s

/-- RSTEP (41 R172). -/
def execRstepWith (rom : Rom) (len : Byte) (d s1 : VReg) (s : State) : Result :=
  withBlockLen len s (succeed (s.writeV d (diffuseStep rom (s.readV s1))))

/-- The (41 R172) at the ROMs' default contents. -/
def execRstep (len : Byte) (d s1 : VReg) (s : State) : Result := execRstepWith Config.rom len d s1 s

/-- IRSTEP (41 R173). -/
def execIrstepWith (rom : Rom) (len : Byte) (d s1 : VReg) (s : State) : Result :=
  withBlockLen len s (succeed (s.writeV d (inverseDiffuseStep rom (s.readV s1))))

/-- The (41 R173) at the ROMs' default contents. -/
def execIrstep (len : Byte) (d s1 : VReg) (s : State) : Result := execIrstepWith Config.rom len d s1 s

/-- LIN (41 R174). -/
def execLinWith (rom : Rom) (len : Byte) (d s1 : VReg) (s : State) : Result :=
  withBlockLen len s (succeed (s.writeV d (diffuse rom (s.readV s1))))

/-- The (41 R174) at the ROMs' default contents. -/
def execLin (len : Byte) (d s1 : VReg) (s : State) : Result := execLinWith Config.rom len d s1 s

/-- ILIN (41 R175). -/
def execIlinWith (rom : Rom) (len : Byte) (d s1 : VReg) (s : State) : Result :=
  withBlockLen len s (succeed (s.writeV d (inverseDiffuse rom (s.readV s1))))

/-- The (41 R175) at the ROMs' default contents. -/
def execIlin (len : Byte) (d s1 : VReg) (s : State) : Result := execIlinWith Config.rom len d s1 s

/-- XOR (41 R176); on blocks, byte by byte (R169), which is the XOR of the 128-bit values. -/
def execXor (len : Byte) (d s1 s2 : VReg) (s : State) : Result :=
  withBlockLen len s (succeed (s.writeV d (s.readV s1 ^^^ s.readV s2)))

end Sys2Proof.Machine
end

