-- ==== Sys2Proof/Machine/CipherCore.lean ====
section
/-! DEFINITION. The round function, the block cipher and the schedule's registers (42_cipher_core). -/

namespace Sys2Proof.Machine

/-! ## Functions -/

/-- One encryption round: XOR the round key, substitute, diffuse (42 R190, R192). -/
def roundStep (rom : Rom) (k v : Block) : Block := diffuse rom (substitute rom (v ^^^ k))

/-- One decryption round: inverse-diffuse, inverse-substitute, XOR the round key (42 R191, R193). -/
def inverseRoundStep (rom : Rom) (k v : Block) : Block := inverseSubstitute rom (inverseDiffuse rom v) ^^^ k

/-- The round keys of the 9 full rounds, i = 0 to 8 (42 R190). -/
def fullRounds : List RKReg := [0, 1, 2, 3, 4, 5, 6, 7, 8]

/-- E, the source's `encryptBlock` (42 R190). -/
def encryptBlock (rom : Rom) (rk : Vector Block 10) (p : Block) : Block :=
  fullRounds.foldl (fun v i => roundStep rom rk[i.val] v) p ^^^ rk[9]

/-- D, the source's `decryptBlock`: i = 8 downto 0 (42 R191). -/
def decryptBlock (rom : Rom) (rk : Vector Block 10) (c : Block) : Block :=
  fullRounds.reverse.foldl (fun v i => inverseRoundStep rom rk[i.val] v) (c ^^^ rk[9])

/-! ## Commands (42 section 2) -/

/-- ROUND (42 R192). -/
def execRoundWith (rom : Rom) (len : Byte) (d s1 : VReg) (imm : Imm) (s : State) : Result :=
  withRoundKey imm s fun i =>
    withBlockLen len s (succeed (s.writeV d (roundStep rom (s.readRK i) (s.readV s1))))

/-- One (42 R192) at the ROMs' default contents. -/
def execRound (len : Byte) (d s1 : VReg) (imm : Imm) (s : State) : Result := execRoundWith Config.rom len d s1 imm s

/-- IROUND (42 R193). -/
def execIroundWith (rom : Rom) (len : Byte) (d s1 : VReg) (imm : Imm) (s : State) : Result :=
  withRoundKey imm s fun i =>
    withBlockLen len s (succeed (s.writeV d (inverseRoundStep rom (s.readRK i) (s.readV s1))))

/-- One (42 R193) at the ROMs' default contents. -/
def execIround (len : Byte) (d s1 : VReg) (imm : Imm) (s : State) : Result := execIroundWith Config.rom len d s1 imm s

/-- ENC (42 R194). -/
def execEncWith (rom : Rom) (len : Byte) (d s1 : VReg) (s : State) : Result :=
  withBlockLen len s (succeed (s.writeV d (encryptBlock rom s.rk (s.readV s1))))

/-- One (42 R194) at the ROMs' default contents. -/
def execEnc (len : Byte) (d s1 : VReg) (s : State) : Result := execEncWith Config.rom len d s1 s

/-- DEC (42 R195). -/
def execDecWith (rom : Rom) (len : Byte) (d s1 : VReg) (s : State) : Result :=
  withBlockLen len s (succeed (s.writeV d (decryptBlock rom s.rk (s.readV s1))))

/-- One (42 R195) at the ROMs' default contents. -/
def execDec (len : Byte) (d s1 : VReg) (s : State) : Result := execDecWith Config.rom len d s1 s

/-- RKLD (42 R196). -/
def execRkld (len : Byte) (s1 : VReg) (imm : Imm) (s : State) : Result :=
  withRoundKey imm s fun i => withBlockLen len s (succeed (s.writeRK i (s.readV s1)))

/-- RKST, which has no LEN check (42 R197). -/
def execRkst (d : VReg) (imm : Imm) (s : State) : Result :=
  withRoundKey imm s fun i => succeed (s.writeV d (s.readRK i))

end Sys2Proof.Machine
end

