-- ==== Sys2Proof/Machine/CbcStream.lean ====
section
/-! DEFINITION. The CBC chaining controller's commands and the frame (44_cbc_stream). -/

namespace Sys2Proof.Machine

/-! ## Block counts and frame checks -/

/-- ceil(SLEN / 16), at most 2^60, as 44 R232 computes it. -/
def blocksOfLength (slen : Dword) : Dword := (slen >>> 4) + (if slen.extractLsb' 0 4 = 0#4 then 0 else 1)

/-- (FLEN - 24) >> 4, the ciphertext blocks of a frame (44 R236). -/
def blocksOfFrame (flen : Dword) : Dword := (flen - 24) >>> 4

/-- FrameCheck(): FrameTooShort first, TruncatedCiphertext then (44 R235). -/
def withFrame (flen : Dword) (s : State) (k : Result) : Result :=
  if flen.toNat < 24 then raiseError .frameTooShort s
  else if (flen.toNat - 24) % 16 ≠ 0 then raiseError .truncatedCiphertext s
  else k

/-! ## Commands -/

/-- CBCE_START; legal in every mode (44 R232). -/
def execCbceStart (len : Byte) (s1 : VReg) (s : State) : Result :=
  withBlockLen len s (succeed (s.openStream .enc (s.readV s1) (blocksOfLength s.slen)))

/-- The writes of CBCE_BLOCK once its checks pass: the ciphertext goes to V[D] and FB, VALID is 16 (44 R233). -/
def cbceBlockWrites (d : VReg) (c : Block) (s : State) : State := ((s.writeV d c).writeFB c).advanceStream 16

/-- CBCE_BLOCK (44 R233). -/
def execCbceBlockWith (rom : Rom) (len : Byte) (d s1 : VReg) (s : State) : Result :=
  withBlockLen len s
    (withMode .enc s (succeed (cbceBlockWrites d (encryptBlock rom s.rk (s.readV s1 ^^^ s.fb)) s)))

/-- ceil (44 R233) at the ROMs' default contents. -/
def execCbceBlock (len : Byte) (d s1 : VReg) (s : State) : Result := execCbceBlockWith Config.rom len d s1 s

/-- CBCD_START; legal in every mode (44 R236). -/
def execCbcdStart (len : Byte) (s1 : VReg) (s : State) : Result :=
  withBlockLen len s
    (withFrame s.flen s (succeed (s.openStream .dec (s.readV s1) (blocksOfFrame s.flen))))

/-- The writes of CBCD_BLOCK once its checks pass: the plaintext goes to V[D], the ciphertext to FB, and VALID is
min(16, REMAIN) (44 R237). -/
def cbcdBlockWrites (d : VReg) (c p : Block) (s : State) : State :=
  ((s.writeV d p).writeFB c).advanceStream (validCount s.remain)

/-- CBCD_BLOCK (44 R237). -/
def execCbcdBlockWith (rom : Rom) (len : Byte) (d s1 : VReg) (s : State) : Result :=
  withBlockLen len s
    (withMode .dec s
      (succeed (cbcdBlockWrites d (s.readV s1) (decryptBlock rom s.rk (s.readV s1) ^^^ s.fb) s)))

/-- ceil (44 R237) at the ROMs' default contents. -/
def execCbcdBlock (len : Byte) (d s1 : VReg) (s : State) : Result := execCbcdBlockWith Config.rom len d s1 s

/-- CBC_ABORT (44 R238). -/
def execCbcAbort (s : State) : Result := succeed s.closeStream

/-! ## Whole streams (44 R230, R231, R234, R239), functions of the host's data -/

/-- C1, ..., CN from C0 = the feedback: Ck = E(Pk XOR C(k-1), RK) (44 R234). -/
def cbcEncrypt (rom : Rom) (rk : Vector Block 10) : Block → List Block → List Block
  | _, [] => []
  | c, p :: ps => encryptBlock rom rk (p ^^^ c) :: cbcEncrypt rom rk (encryptBlock rom rk (p ^^^ c)) ps

/-- P1, ..., PN from C0 = the feedback: Pk = D(Ck, RK) XOR C(k-1) (44 R239). -/
def cbcDecrypt (rom : Rom) (rk : Vector Block 10) : Block → List Block → List Block
  | _, [] => []
  | c, x :: xs => (decryptBlock rom rk x ^^^ c) :: cbcDecrypt rom rk x xs

/-- The 16 bytes of a block, byte 0 first. -/
def blockBytes (b : Block) : List Byte := (List.range 16).map (blockByte b)

/-- Frame byte i, i = 0..7, is SLEN[63-8*i : 56-8*i] (44 R231). -/
def lengthBytes (slen : Dword) : List Byte := (List.range 8).map fun i => slen.extractLsb' (56 - 8 * i) 8

/-- The frame: length, IV, ciphertext blocks (44 R230, R231). -/
def frameBytes (slen : Dword) (iv : Block) (cs : List Block) : List Byte :=
  lengthBytes slen ++ blockBytes iv ++ cs.flatMap blockBytes

/-- The length field of a frame: bytes 0..7, byte 0 the most significant (44 R230, R231). A byte that a short frame does not
have is taken as 0: DESIGN CHOICE (log 21). -/
def frameSlen (frame : List Byte) : Dword :=
  frame.getD 0 0 ++ frame.getD 1 0 ++ frame.getD 2 0 ++ frame.getD 3 0 ++ frame.getD 4 0 ++ frame.getD 5 0 ++ frame.getD 6 0
    ++ frame.getD 7 0

/-- The 16 bytes of a frame from offset `off` on. A byte that a short frame does not have is taken as 0: DESIGN CHOICE
(log 21). -/
def frameBlock (frame : List Byte) (off : Nat) : Block := blockOfBytes fun j => frame.getD (off + j) 0

/-- Bytes 8..23 of a frame (44 R231). -/
def frameIv (frame : List Byte) : Block := frameBlock frame 8

/-- FrameCheck() passes on a frame of this many bytes (44 R235); of 2^64 bytes or more, that is the model's (log 22). -/
def frameLengthOk (n : Nat) : Bool := 24 ≤ n && (n - 24) % 16 == 0

/-- C1, ..., CN of a frame, from offset 24 on (44 R231); none of a frame that FrameCheck() turns down (44 R235). N is of the
frame's full length, also where that is 2^64 or more and FLEN cannot hold it: DESIGN CHOICE (log 22). -/
def frameBlocks (frame : List Byte) : List Block :=
  if frameLengthOk frame.length then (List.range ((frame.length - 24) / 16)).map fun k => frameBlock frame (24 + 16 * k)
  else []

/-- `encryptStream`: the frame of a plaintext of `slen` bytes, given as its blocks (44 R234). -/
def encryptStream (rom : Rom) (rk : Vector Block 10) (slen : Dword) (iv : Block) (ps : List Block) : List Byte :=
  frameBytes slen iv (cbcEncrypt rom rk iv ps)

/-- `decryptStream`: the plaintext blocks' bytes, truncated to min(SLEN, 16 N) of them (44 R239, R244). -/
def decryptStream (rom : Rom) (rk : Vector Block 10) (frame : List Byte) : List Byte :=
  ((cbcDecrypt rom rk (frameIv frame) (frameBlocks frame)).flatMap blockBytes).take (frameSlen frame).toNat

end Sys2Proof.Machine
end

