-- ==== Sys2Proof/Machine/Control.lean ====
section
/-! DEFINITION. The control command (45_control). -/

namespace Sys2Proof.Machine

/-- NOP: no state is written but ERR, DONE and BUSY at completion (45 R260). -/
def execNop (s : State) : Result := succeed s

end Sys2Proof.Machine
end

