-- ==== Sys2Proof/Machine/KeySchedule.lean ====
section
/-! DEFINITION. The round constants, the Feistel step, the key expansion and their commands (43_key_schedule). -/

namespace Sys2Proof.Machine

/-! ## Functions -/

/-- C[i]: byte 0 is i + 1, the rest 0; used raw, never diffused (43 R210, R217; 90 C9). -/
def roundConstant (i : Nat) : Block := blockOfBytes fun j => if j = 0 then BitVec.ofNat 8 (i + 1) else 0

/-- The new left half of a Feistel step: L(S(Lh XOR K)) XOR Rh (43 R211, R214). -/
def feistelLeft (rom : Rom) (lh rh k : Block) : Block := diffuse rom (substitute rom (lh ^^^ k)) ^^^ rh

/-- F, the source's `feistelStep`: the new right is the old left (43 R211; 90 C6). -/
def feistelStep (rom : Rom) (lr : Block × Block) (k : Block) : Block × Block := (feistelLeft rom lr.1 lr.2 k, lr.1)

/-- n Feistel steps with the constants C[first], C[first+1], ... in increasing order (43 R212). -/
def feistelSteps (rom : Rom) (first : Nat) : Nat → Block × Block → Block × Block
  | 0, lr => lr
  | n + 1, lr => feistelStep rom (feistelSteps rom first n lr) (roundConstant (first + n))

/-- The pair after outer iterations 0 to i-1, each of 8 steps: iteration i uses C[8i] to C[8i+7], and the pair carries on
from one iteration to the next (43 R212). -/
def feistelPair (rom : Rom) (kl kr : Block) : Nat → Block × Block
  | 0 => (kl, kr)
  | i + 1 => feistelSteps rom (8 * i) 8 (feistelPair rom kl kr i)

/-- X, the source's `expand`: keys 2i and 2i+1 are the left and right of the pair after i outer iterations, so keys 0 and
1 are the master-key halves (43 R212, R215). -/
def expand (rom : Rom) (kl kr : Block) : Vector Block 10 :=
  #v[(feistelPair rom kl kr 0).1, (feistelPair rom kl kr 0).2,
     (feistelPair rom kl kr 1).1, (feistelPair rom kl kr 1).2,
     (feistelPair rom kl kr 2).1, (feistelPair rom kl kr 2).2,
     (feistelPair rom kl kr 3).1, (feistelPair rom kl kr 3).2,
     (feistelPair rom kl kr 4).1, (feistelPair rom kl kr 4).2]

/-! ## Commands (43 section 3) -/

/-- RCON; every IMM is legal (43 R213). -/
def execRcon (d : VReg) (imm : Imm) (s : State) : Result := succeed (s.writeV d (roundConstant imm.toNat))

/-- FEISTEL; the new right half is V[S1] itself and is not written (43 R214). -/
def execFeistelWith (rom : Rom) (len : Byte) (d s1 s2 : VReg) (imm : Imm) (s : State) : Result :=
  withBlockLen len s
    (succeed (s.writeV d (feistelLeft rom (s.readV s1) (s.readV s2) (roundConstant imm.toNat))))

/-- C[i]: at the ROMs' default contents. -/
def execFeistel (len : Byte) (d s1 s2 : VReg) (imm : Imm) (s : State) : Result :=
  execFeistelWith Config.rom len d s1 s2 imm s

/-- EXPAND: left half in V[S1], right half in V[S2] (43 R216, R218). -/
def execExpandWith (rom : Rom) (len : Byte) (s1 s2 : VReg) (s : State) : Result :=
  withKeyLen len s (succeed (s.writeSchedule (expand rom (s.readV s1) (s.readV s2))))

/-- C[i]: at the ROMs' default contents. -/
def execExpand (len : Byte) (s1 s2 : VReg) (s : State) : Result := execExpandWith Config.rom len s1 s2 s

end Sys2Proof.Machine
end

