-- ==== Sys2Proof/Machine/Dispatch.lean ====
section
/-! DEFINITION. The dispatch: one arm a constructor of Instr. -/

namespace Sys2Proof.Machine

/-- The completion of a command that passed the decoder (30_encoding R120, R126). -/
def exec (i : Instr) (s : State) : Host.Outcome State Fault Refusal :=
  match i with
  | .nop => Sys2Proof.Machine.execNop s
  | .gfmul len d s1 s2 => Sys2Proof.Machine.execGfmul len d s1 s2 s
  | .sub len d s1 => Sys2Proof.Machine.execSub len d s1 s
  | .isub len d s1 => Sys2Proof.Machine.execIsub len d s1 s
  | .rstep len d s1 => Sys2Proof.Machine.execRstep len d s1 s
  | .irstep len d s1 => Sys2Proof.Machine.execIrstep len d s1 s
  | .lin len d s1 => Sys2Proof.Machine.execLin len d s1 s
  | .ilin len d s1 => Sys2Proof.Machine.execIlin len d s1 s
  | .xor len d s1 s2 => Sys2Proof.Machine.execXor len d s1 s2 s
  | .round len d s1 imm => Sys2Proof.Machine.execRound len d s1 imm s
  | .iround len d s1 imm => Sys2Proof.Machine.execIround len d s1 imm s
  | .enc len d s1 => Sys2Proof.Machine.execEnc len d s1 s
  | .dec len d s1 => Sys2Proof.Machine.execDec len d s1 s
  | .rkld len s1 imm => Sys2Proof.Machine.execRkld len s1 imm s
  | .rkst d imm => Sys2Proof.Machine.execRkst d imm s
  | .rcon d imm => Sys2Proof.Machine.execRcon d imm s
  | .feistel len d s1 s2 imm => Sys2Proof.Machine.execFeistel len d s1 s2 imm s
  | .expand len s1 s2 => Sys2Proof.Machine.execExpand len s1 s2 s
  | .cbceStart len s1 => Sys2Proof.Machine.execCbceStart len s1 s
  | .cbceBlock len d s1 => Sys2Proof.Machine.execCbceBlock len d s1 s
  | .cbcdStart len s1 => Sys2Proof.Machine.execCbcdStart len s1 s
  | .cbcdBlock len d s1 => Sys2Proof.Machine.execCbcdBlock len d s1 s
  | .cbcAbort => Sys2Proof.Machine.execCbcAbort s

end Sys2Proof.Machine
end

