-- ==== Sys2Proof/Machine/Port.lean ====
section
/-! DEFINITION. The register port: what a host read returns and what a host write does (20_memory). -/

namespace Sys2Proof.Machine

/-- The architectural value a read of the register returns (20_memory R83 to R85; 10_state R39 to R49). -/
def State.regRead (s : State) : WindowReg → Word
  | .id => Config.idValue
  | .ctrl => s.ctrl.toWord
  | .status => s.status.toWord
  | .cmd => s.cmd
  | .slenHi => hiWord s.slen
  | .slenLo => loWord s.slen
  | .flenHi => hiWord s.flen
  | .flenLo => loWord s.flen
  | .remainHi => hiWord s.remain
  | .remainLo => loWord s.remain
  | .nblkHi => hiWord s.nblk
  | .nblkLo => loWord s.nblk
  | .v n k => blockWord (s.readV n) k
  | .reserved => 0

/-- What a write the port performs does (20_memory R83, R85, R86; 10_state R41, R42, R49): CMD starts a command, STATUS is
W1C, read-only and reserved registers ignore it. -/
def State.regWrite (s : State) (r : WindowReg) (w : Word) : State :=
  match r with
  | .id => s
  | .ctrl => s.writeCtrl w
  | .status => s.acknowledge w
  | .cmd => s.issue w
  | .slenHi => s.writeSlen (setHiWord s.slen w)
  | .slenLo => s.writeSlen (setLoWord s.slen w)
  | .flenHi => s.writeFlen (setHiWord s.flen w)
  | .flenLo => s.writeFlen (setLoWord s.flen w)
  | .remainHi => s
  | .remainLo => s
  | .nblkHi => s
  | .nblkLo => s
  | .v n k => s.writeV n (setBlockWord (s.readV n) k w)
  | .reserved => s

/-- A host read: the register's value, or a draw for V, REMAIN and NBLK while BUSY = 1 (20_memory R87). It has no side
effect on the core (R90). -/
def State.portRead (s : State) (off : Byte) : State :=
  if s.status.busy && (windowReg off).unspecifiedWhileBusy then s.returnDraw
  else s.returnWord (s.regRead (windowReg off))

/-- A host write: performed, or dropped with WOVR <- 1 while BUSY = 1 unless it is to CTRL or STATUS (20_memory R87). -/
def State.portWrite (s : State) (off : Byte) (w : Word) : State :=
  if s.status.busy && !(windowReg off).writableWhileBusy then s.overrun else s.regWrite (windowReg off) w

/-- One access of the register port (20_memory R82). -/
def State.portAccess (s : State) : Access → State
  | .read off => s.portRead off
  | .write off w => s.portWrite off w

end Sys2Proof.Machine
end

