-- ==== Sys2Proof/Machine/Sequencer.lean ====
section
/-! DEFINITION. What each turn does: the sequencer's decode and run, the host's access, the reset input
(30_encoding R120, R125, R126; 20_memory R92; 70_reset R300). -/

namespace Sys2Proof.Machine

/-- The command word the sequencer runs: the one the port accepted, held in CMD (30_encoding R125, 20_memory R97). -/
def State.fetch (s : State) : Word := s.cmd

/-- The completion of a decoded command: `exec`, or `exec` with other ROM contents (00_scope R13). -/
abbrev Meaning := Instr → State → Result

/-- The executing command completes: decode, then the command's rule; a word that is no command fails with
IllegalCommand (30_encoding R119, R120). The operands are read here, unchanged since the acceptance (log 17). -/
def runCommandBy (ex : Meaning) (s : State) : Result :=
  match decode s.fetch with
  | .ok i => ex i s
  | .error _ => raiseError .illegalCommand s

/-- The sequencer's turn: with BUSY = 1 the command completes; with BUSY = 0 the core is idle and keeps all state
(60 R290), as it does while reset is asserted (70_reset R300). -/
def sequencerTurnBy (ex : Meaning) (s : State) : Result :=
  if s.rstN && s.status.busy then runCommandBy ex s else .next s

/-- A host's turn: the port performs the access; while reset is asserted it accepts none (70_reset R300). -/
def hostTurn (a : Access) (s : State) : State := if s.rstN then s.portAccess a else s

/-- The end of a reset, where one was asserted (70_reset R300). -/
def releaseTurn (s : State) : State := if s.rstN then s else s.releaseReset

/-- One turn. -/
def takeTurnBy (ex : Meaning) (t : Turn) (s : State) : Result :=
  match t with
  | .sequencer => sequencerTurnBy ex s
  | .host a => .next (hostTurn a s)
  | .assertReset => .next s.assertReset
  | .releaseReset => .next (releaseTurn s)

/-- One step: the next turn of the agenda; with no turn left, the sequencer's, so that an accepted command completes
(30_encoding R126, 70_reset R320) and an idle core stays as it is (60 R290; log 10). -/
def stepBy (ex : Meaning) (s : State) : Result :=
  match s.agenda with
  | [] => sequencerTurnBy ex s
  | t :: rest => takeTurnBy ex t (s.withAgenda rest)

/-- The completion of the executing command, at the ROMs' default contents. -/
def runCommand (s : State) : Result := runCommandBy exec s

end Sys2Proof.Machine
end

