-- ==== Sys2Proof/Machine/Step.lean ====
section
/-! DEFINITION. One step of the machine, and the state in which the next step runs a given command word. -/

namespace Sys2Proof.Machine

/-- One step of the core whose ROMs hold the default contents. -/
def step (s : State) : Host.Outcome State Fault Refusal := stepBy exec s

/-- The state as the port leaves it when it accepts the CMD write of the word (30_encoding R125), reset released, with the
sequencer's turn next: the next step decodes and runs exactly that command (log 8). -/
def State.withFetchWord (s : State) (nbits w : Nat) : State :=
  { (s.issue (BitVec.ofNat 32 (w % 2 ^ nbits))) with rstN := true, agenda := .sequencer :: s.agenda }

end Sys2Proof.Machine
end

