-- ==== Sys2Proof/Machine/HostProgram.lean ====
section
/-! DEFINITION. The host program statements of 30_encoding R122, as turns of the agenda (registers and waits:
log 20). -/

namespace Sys2Proof.Machine

/-- The byte offsets of 20_memory R84. -/
def offCtrl : Byte := 0x04#8
def offStatus : Byte := 0x08#8
def offCmd : Byte := 0x0C#8
def offSlenHi : Byte := 0x10#8
def offSlenLo : Byte := 0x14#8
def offFlenHi : Byte := 0x18#8
def offFlenLo : Byte := 0x1C#8

/-- The offset of word k of V[n]: 0x40 + 16*n + 4*k (20_memory R85). -/
def offV (n : VReg) (k : Fin 4) : Byte := BitVec.ofNat 8 (0x40 + 16 * n.val + 4 * k.val)

/-- `wr`: a host write (R122). -/
def wr (off : Byte) (w : Word) : Turn := .host (.write off w)

/-- `rd`: a host read (R122). -/
def rd (off : Byte) : Turn := .host (.read off)

/-- `ldv Vn, b`: four writes (R122). -/
def ldv (n : VReg) (b : Block) : List Turn :=
  [wr (offV n 0) (blockWord b 0), wr (offV n 1) (blockWord b 1), wr (offV n 2) (blockWord b 2), wr (offV n 3) (blockWord b 3)]

/-- `stv Vn`: four reads (R122). -/
def stv (n : VReg) : List Turn := [rd (offV n 0), rd (offV n 1), rd (offV n 2), rd (offV n 3)]

/-- `ld64 SLEN, x` (R122). -/
def ldSlen (x : Dword) : List Turn := [wr offSlenHi (hiWord x), wr offSlenLo (loWord x)]

/-- `ld64 FLEN, x` (R122). -/
def ldFlen (x : Dword) : List Turn := [wr offFlenHi (hiWord x), wr offFlenLo (loWord x)]

/-- `wait`: reads of STATUS until BUSY = 0, here `polls` reads before the command completes and one after (R122). -/
def waitPolling (polls : Nat) : List Turn := List.replicate polls (rd offStatus) ++ [.sequencer, rd offStatus]

/-- A host that waits for IRQ instead (20_memory R95): the command completes, and no STATUS read is made. -/
def waitIrq : List Turn := [.sequencer]

/-- A command line: write its word to CMD, then wait (R122). -/
def commandLine (i : Instr) (wait : List Turn) : List Turn := wr offCmd (encode i) :: wait

/-- `CLR Vd`: XOR Vd, Vd, Vd (R122). -/
def clr (d : VReg) (wait : List Turn) : List Turn := commandLine (.xor 16 d d d) wait

/-- One block of 44 R234's loop: load P into V0, CBCE_BLOCK V1, V0, read V1. -/
def encryptBlockTurns (p : Block) : List Turn := ldv 0 p ++ commandLine (.cbceBlock 16 1 0) waitIrq ++ stv 1

/-- The host program of 44 R234: SLEN, IV in V7, CBCE_START, then a block at a time. The registers, and the wait for IRQ
(20_memory R95) where R122's `wait` reads STATUS, are DESIGN CHOICE (log 20). -/
def encryptStreamTurns (slen : Dword) (iv : Block) (ps : List Block) : List Turn :=
  ldSlen slen ++ ldv 7 iv ++ commandLine (.cbceStart 16 7) waitIrq ++ ps.flatMap encryptBlockTurns

/-- One block of 44 R239's loop: load C into V0, CBCD_BLOCK V1, V0, wait, which reads STATUS and so VALID, read V1. -/
def decryptBlockTurns (c : Block) : List Turn := ldv 0 c ++ commandLine (.cbcdBlock 16 1 0) (waitPolling 0) ++ stv 1

/-- The host program of 44 R239 on a frame: its length into FLEN, bytes 0..7 into SLEN, bytes 8..23 into V7, CBCD_START,
wait, and, where that reads ERR = 0 (the frame's length is right, 44 R235), a block at a time. The registers and waits are
DESIGN CHOICE (log 20), and so is what a frame shorter than 24 bytes puts into SLEN and V7 (log 21). So is what is done with
a frame of 2^64 bytes or more: its length modulo 2^64 goes into FLEN, and the full length stands for ERR = 0 (log 22). -/
def decryptStreamTurns (frame : List Byte) : List Turn :=
  ldFlen (BitVec.ofNat 64 frame.length) ++ ldSlen (frameSlen frame) ++ ldv 7 (frameIv frame)
    ++ commandLine (.cbcdStart 16 7) (waitPolling 0) ++ (frameBlocks frame).flatMap decryptBlockTurns

/-- STATUS.VALID in a STATUS word a host has read, bits 12:8 (10_state R42). -/
def statusValid (w : Word) : Nat := (w.extractLsb' 8 5).toNat

/-- STATUS.ERR in a STATUS word a host has read, bits 23:16 (10_state R42). -/
def statusErr (w : Word) : Byte := w.extractLsb' 16 8

/-- What the host of 44 R239 keeps of what it reads a block, STATUS and then the four words of V1: the first VALID bytes. -/
def keptBytes : List Word → List Byte
  | st :: w0 :: w1 :: w2 :: w3 :: rest => ([w0, w1, w2, w3].flatMap wordBytes).take (statusValid st) ++ keptBytes rest
  | _ => []

/-- The four words a host reads of a block, in order (R122). -/
def wordsOfBlock (b : Block) : List Word := [blockWord b 0, blockWord b 1, blockWord b 2, blockWord b 3]

/-- What the host has read after reading these blocks' words, the latest word first. -/
def readLog (bs : List Block) : List Word := (bs.flatMap wordsOfBlock).reverse

end Sys2Proof.Machine
end

