-- ==== Sys2Proof/Machine/Parameters.lean ====
section
/-! DEFINITION. The machine with PI and LCOEF as its parameters (00_scope R13, 93 section 2). `exec`, `step` and
`Sys2Proof.core` are this machine at the default contents, `Config.rom`. -/

namespace Sys2Proof.Machine

/-- The ROM contents a core may have: PI a permutation and LCOEF[15] = 0x01, which a model must require
(00_scope R13, 41 R164). -/
structure Parameters where
  rom : Rom
  wellFormed : rom.WellFormed

/-- The completion of a command that passed the decoder, in a core whose ROMs hold `rom`. -/
def execWith (rom : Rom) (i : Instr) (s : State) : Result :=
  match i with
  | .nop => execNop s
  | .gfmul len d s1 s2 => execGfmul len d s1 s2 s
  | .sub len d s1 => execSubWith rom len d s1 s
  | .isub len d s1 => execIsubWith rom len d s1 s
  | .rstep len d s1 => execRstepWith rom len d s1 s
  | .irstep len d s1 => execIrstepWith rom len d s1 s
  | .lin len d s1 => execLinWith rom len d s1 s
  | .ilin len d s1 => execIlinWith rom len d s1 s
  | .xor len d s1 s2 => execXor len d s1 s2 s
  | .round len d s1 imm => execRoundWith rom len d s1 imm s
  | .iround len d s1 imm => execIroundWith rom len d s1 imm s
  | .enc len d s1 => execEncWith rom len d s1 s
  | .dec len d s1 => execDecWith rom len d s1 s
  | .rkld len s1 imm => execRkld len s1 imm s
  | .rkst d imm => execRkst d imm s
  | .rcon d imm => execRcon d imm s
  | .feistel len d s1 s2 imm => execFeistelWith rom len d s1 s2 imm s
  | .expand len s1 s2 => execExpandWith rom len s1 s2 s
  | .cbceStart len s1 => execCbceStart len s1 s
  | .cbceBlock len d s1 => execCbceBlockWith rom len d s1 s
  | .cbcdStart len s1 => execCbcdStart len s1 s
  | .cbcdBlock len d s1 => execCbcdBlockWith rom len d s1 s
  | .cbcAbort => execCbcAbort s

/-- The completion of the executing command, in a core whose ROMs hold `rom`. -/
def runCommandWith (rom : Rom) (s : State) : Result := runCommandBy (execWith rom) s

/-- One step of a core whose ROMs hold `rom`. -/
def stepWith (rom : Rom) (s : State) : Host.Outcome State Fault Refusal := stepBy (execWith rom) s

/-- The core with the given ROM contents. -/
def coreWith (p : Parameters) : Host.Core :=
  { State := State, Fault := Fault, Refusal := Refusal, step := stepWith p.rom, reset := State.reset }

end Sys2Proof.Machine
end

