-- ==== Sys2Proof/Machine/System.lean ====
section
/-! DEFINITION. A system of N_INST independent core instances (60_exceptions R288): they share no state, and the ROM
tables are the same constants in each (log 14). -/

namespace Sys2Proof.Machine

/-- The instances of a system: the first, and the others. N_INST is at least 1 (00_scope R13), so there is a first. -/
structure System where
  first : State
  others : List State
  deriving DecidableEq, Repr

/-- The instances in order. -/
def System.cores (sys : System) : List State := sys.first :: sys.others

/-- N_INST (00_scope R13). -/
def System.nInst (sys : System) : Nat := sys.cores.length

/-- Instance k replaced. -/
def System.setCore (sys : System) (k : Nat) (s : State) : System :=
  match k with
  | 0 => { sys with first := s }
  | j + 1 => { sys with others := sys.others.set j s }

/-- One step of instance k, in a system whose ROMs hold `p.rom`; which instance moves next is open (60 R288), so it is an
argument. An index with no instance steps nothing. -/
def System.stepAt (p : Parameters) (sys : System) (k : Nat) : Host.Outcome System Fault Refusal :=
  match sys.cores[k]? with
  | none => .next sys
  | some s =>
    match stepWith p.rom s with
    | .next t => .next (sys.setCore k t)
    | .fault r => .fault r
    | .refused r => .refused r

end Sys2Proof.Machine
end

