-- ==== Sys2Proof/Safety.lean ====
section
/-! DEFINITION. What a run must keep, and the words the statements use for what a command leaves unchanged. -/

namespace Sys2Proof.Machine

/-! ## The invariant of a run -/

/-- What holds at reset and after every step: an open stream has blocks left (10_state R44); an encryption stream has just
the blocks its remaining bytes need (44 R232, R233); VALID is 0..16 (10_state R47); error code 7 is never held (60 R270);
BUSY and DONE are never both 1 (30 R125, R126); nothing executes while reset is asserted (70 R300). -/
def State.Inv (s : State) : Prop :=
  (s.status.mode ≠ .idle → s.nblk ≠ 0) ∧
    (s.status.mode = .enc → s.nblk.toNat = (s.remain.toNat + 15) / 16) ∧
    s.status.valid.toNat ≤ 16 ∧
    s.status.err ≠ .invalidInputLength ∧
    (s.status.busy = true → s.status.done = false) ∧
    (s.rstN = false → s.status.busy = false)

/-! ## What is unchanged from s to t -/

/-- Every V register. -/
def KeepsV (s t : State) : Prop := ∀ n, t.readV n = s.readV n

/-- Every V register but V[d]. -/
def KeepsOtherV (d : VReg) (s t : State) : Prop := ∀ n, n ≠ d → t.readV n = s.readV n

/-- Every RK register. -/
def KeepsRK (s t : State) : Prop := ∀ i, t.readRK i = s.readRK i

/-- The CBC stream state: MODE, FB, NBLK, REMAIN and VALID (44 R242). -/
def KeepsStream (s t : State) : Prop :=
  t.status.mode = s.status.mode ∧ t.fb = s.fb ∧ t.nblk = s.nblk ∧ t.remain = s.remain ∧ t.status.valid = s.status.valid

/-- What no command writes: SLEN, FLEN, CTRL, CMD, WOVR, the reset input, and the model's own fields. -/
def KeepsHostSide (s t : State) : Prop :=
  t.slen = s.slen ∧ t.flen = s.flen ∧ t.ctrl = s.ctrl ∧ t.cmd = s.cmd ∧ t.status.wovr = s.status.wovr ∧
    t.rstN = s.rstN ∧ t.agenda = s.agenda ∧ t.reads = s.reads ∧ t.draws = s.draws

/-- The completion writes of 30_encoding R126: ERR, DONE and BUSY. -/
def CompletedWith (code : ErrCode) (t : State) : Prop :=
  t.status.err = code ∧ t.status.done = true ∧ t.status.busy = false

/-- A successful command that writes V[d] and nothing else but ERR, DONE and BUSY. -/
def WritesOnlyV (d : VReg) (s t : State) : Prop :=
  KeepsOtherV d s t ∧ KeepsRK s t ∧ KeepsStream s t ∧ KeepsHostSide s t ∧ CompletedWith .ok t

/-- `raise Error(code)` (60 R276): a next state that differs from s in ERR, DONE and BUSY only. -/
def FailsWith (r : Result) (code : ErrCode) (s : State) : Prop :=
  ∃ t, r = .next t ∧ CompletedWith code t ∧ KeepsV s t ∧ KeepsRK s t ∧ KeepsStream s t ∧ KeepsHostSide s t

/-! ## How a command word runs -/

/-- A word whose OP is `op` fails with IllegalCommand when a reserved bit is set, and else runs as the instruction `i`
reads from it (30_encoding R113, R120). -/
def RunsAs (op : Byte) (i : Word → Instr) : Prop :=
  ∀ s : State, fieldOp s.cmd = op →
    (s.cmd.getLsbD 19 = true ∨ s.cmd.getLsbD 23 = true → FailsWith (runCommand s) .illegalCommand s) ∧
      (s.cmd.getLsbD 19 = false → s.cmd.getLsbD 23 = false → runCommand s = exec (i s.cmd) s)

/-- The same for a command whose IMM is a round-key index: IMM > 9 fails too (30_encoding R117). -/
def RunsAsRoundKey (op : Byte) (i : Word → Instr) : Prop :=
  ∀ s : State, fieldOp s.cmd = op →
    (s.cmd.getLsbD 19 = true ∨ s.cmd.getLsbD 23 = true ∨ 9 < (fieldImm s.cmd).toNat →
        FailsWith (runCommand s) .illegalCommand s) ∧
      (s.cmd.getLsbD 19 = false → s.cmd.getLsbD 23 = false → (fieldImm s.cmd).toNat ≤ 9 →
        runCommand s = exec (i s.cmd) s)

/-- The opcodes of the commands whose LEN must be 16 (30_encoding R116). -/
def blockLenOpcodes : List Byte :=
  [0x01#8, 0x02#8, 0x03#8, 0x04#8, 0x05#8, 0x06#8, 0x07#8, 0x08#8, 0x10#8, 0x11#8, 0x12#8, 0x13#8, 0x14#8, 0x19#8, 0x20#8,
   0x21#8, 0x22#8, 0x23#8]

/-- The opcodes of the commands that ignore LEN: NOP, RKST, RCON, CBC_ABORT (30_encoding R116). -/
def noLenOpcodes : List Byte := [0x00#8, 0x15#8, 0x18#8, 0x24#8]

/-- The opcodes whose IMM is a round-key index: ROUND, IROUND, RKLD, RKST (30_encoding R117). -/
def roundKeyOpcodes : List Byte := [0x10#8, 0x11#8, 0x14#8, 0x15#8]

/-- A reserved opcode: 0x09..0x0F, 0x16, 0x17, 0x1B..0x1F and 0x25..0xFF (30_encoding R115). -/
def ReservedOpcode (op : Byte) : Prop :=
  (0x09 ≤ op.toNat ∧ op.toNat ≤ 0x0F) ∨ op.toNat = 0x16 ∨ op.toNat = 0x17 ∨ (0x1B ≤ op.toNat ∧ op.toNat ≤ 0x1F) ∨
    0x25 ≤ op.toNat

/-- The bits of the fields a command uses, OP among them (30_encoding R114, R118). -/
def usedBits : Instr → Word
  | .nop => 0x000000FF#32
  | .gfmul .. => 0x0777FFFF#32
  | .sub .. => 0x0077FFFF#32
  | .isub .. => 0x0077FFFF#32
  | .rstep .. => 0x0077FFFF#32
  | .irstep .. => 0x0077FFFF#32
  | .lin .. => 0x0077FFFF#32
  | .ilin .. => 0x0077FFFF#32
  | .xor .. => 0x0777FFFF#32
  | .round .. => 0xF877FFFF#32
  | .iround .. => 0xF877FFFF#32
  | .enc .. => 0x0077FFFF#32
  | .dec .. => 0x0077FFFF#32
  | .rkld .. => 0xF870FFFF#32
  | .rkst .. => 0xF80700FF#32
  | .rcon .. => 0xF80700FF#32
  | .feistel .. => 0xFF77FFFF#32
  | .expand .. => 0x0770FFFF#32
  | .cbceStart .. => 0x0070FFFF#32
  | .cbceBlock .. => 0x0077FFFF#32
  | .cbcdStart .. => 0x0070FFFF#32
  | .cbcdBlock .. => 0x0077FFFF#32
  | .cbcAbort => 0x000000FF#32

/-! ## Whole streams (44 R230, R231, R234, R239, R240) -/

/-- What a number of steps answers, for a machine of this State. -/
abbrev Runs := Nat → State → Result

/-- The layout of a frame: 8 bytes of length, byte i being SLEN[63 - 8*i : 56 - 8*i]; the IV at offset 8; ciphertext block
k + 1 at offset 24 + 16*k (44 R230, R231). -/
def FrameLayout (frame : List Byte) (slen : Dword) (iv : Block) (cs : List Block) : Prop :=
  frame.length = 24 + 16 * cs.length ∧ (∀ i < 8, frame[i]? = some (slen.extractLsb' (56 - 8 * i) 8)) ∧
    (∀ j < 16, frame[8 + j]? = some (blockByte iv j)) ∧
    ∀ (k : Nat) (c : Block), cs[k]? = some c → ∀ j < 16, frame[24 + 16 * k + j]? = some (blockByte c j)

/-- From an idle core, the host program of 44 R234 reads back C1, ..., CN with Ck = E(Pk XOR C(k-1), RK), C0 = IV, and the
stream is closed. The bytes of SLEN_HI, SLEN_LO, the IV's words and the words read are the frame (44 R231). -/
def EncryptsStreams (run : Runs) (rom : Rom) : Prop :=
  ∀ (s : State) (slen : Dword) (iv : Block) (ps : List Block), s.rstN = true → s.status.busy = false →
    s.agenda = encryptStreamTurns slen iv ps → ps.length = (slen.toNat + 15) / 16 →
    ∃ t cs frame, run s.agenda.length s = .next t ∧ cs.length = ps.length ∧
      (∀ (k : Nat) (p : Block), ps[k]? = some p →
        cs[k]? = some (encryptBlock rom s.rk (p ^^^ if k = 0 then iv else cs.getD (k - 1) 0))) ∧
      t.reads = readLog cs ++ s.reads ∧ t.slen = slen ∧ t.status.mode = .idle ∧ t.nblk = 0 ∧ t.rk = s.rk ∧
      frame = ([t.regRead .slenHi, t.regRead .slenLo] ++ wordsOfBlock iv ++
        (t.reads.take (4 * ps.length)).reverse).flatMap wordBytes ∧
      frame = encryptStream rom s.rk slen iv ps ∧ FrameLayout frame slen iv cs

/-- What a host reads in 44 R239's loop: for each block STATUS, then the block's words. -/
def loopReads (sts : List Word) (ps : List Block) : List Word := (sts.zip ps).flatMap fun x => x.1 :: wordsOfBlock x.2

/-- From an idle core, the host program of 44 R239 on a frame. If the frame's length is right, ERR reads 0, block k + 1 reads
as Pk = D(Ck, RK) XOR C(k-1) with VALID = min(16, SLEN - 16*k), and the bytes the host keeps are `decryptStream`: the
concatenated blocks truncated to min(SLEN, 16 N) bytes. Otherwise ERR reads FrameTooShort or TruncatedCiphertext. -/
def DecryptsStreams (run : Runs) (rom : Rom) : Prop :=
  ∀ (s : State) (frame : List Byte), s.rstN = true → s.status.busy = false → s.agenda = decryptStreamTurns frame →
    frame.length < 2 ^ 64 →
    ∃ t st, run s.agenda.length s = .next t ∧ t.rk = s.rk ∧
      (frameLengthOk frame.length = false →
        t.reads = st :: s.reads ∧ statusErr st = if frame.length < 24 then 3 else 4) ∧
      (frameLengthOk frame.length = true → ∃ ps sts, ps.length = (frame.length - 24) / 16 ∧ sts.length = ps.length ∧
        t.reads = (st :: loopReads sts ps).reverse ++ s.reads ∧ statusErr st = 0 ∧
        (∀ (k : Nat) (p : Block), ps[k]? = some p → p = decryptBlock rom s.rk (frameBlock frame (24 + 16 * k)) ^^^
          if k = 0 then frameIv frame else frameBlock frame (24 + 16 * (k - 1))) ∧
        (∀ (k : Nat) (x : Word), sts[k]? = some x → statusValid x = min 16 ((frameSlen frame).toNat - 16 * k)) ∧
        keptBytes (loopReads sts ps) =
          (ps.flatMap blockBytes).take (min (frameSlen frame).toNat (16 * ps.length)) ∧
        keptBytes (loopReads sts ps) = decryptStream rom s.rk frame ∧
        t.status.mode = .idle ∧ t.nblk = 0 ∧ t.remain.toNat = (frameSlen frame).toNat - 16 * ps.length)

/-- From an idle core, the host program of 44 R234 followed by that of R239 on its frame (N blocks as many as FLEN can
count): the host reads the ciphertext, then the plaintext blocks, keeps the original SLEN bytes, and the last block's VALID is
the number of its bytes below SLEN. -/
def RoundTripsStreams (run : Runs) (rom : Rom) : Prop :=
  ∀ (s : State) (slen : Dword) (iv : Block) (ps : List Block), s.rstN = true → s.status.busy = false →
    ps.length = (slen.toNat + 15) / 16 → 24 + 16 * ps.length < 2 ^ 64 →
    s.agenda = encryptStreamTurns slen iv ps ++ decryptStreamTurns (encryptStream rom s.rk slen iv ps) →
    ∃ t st sts, run s.agenda.length s = .next t ∧ sts.length = ps.length ∧ statusErr st = 0 ∧
      t.reads = (st :: loopReads sts ps).reverse ++ (readLog (cbcEncrypt rom s.rk iv ps) ++ s.reads) ∧
      keptBytes (loopReads sts ps) = (ps.flatMap blockBytes).take slen.toNat ∧
      t.status.mode = .idle ∧ t.remain = 0 ∧ (ps ≠ [] → t.status.valid.toNat = slen.toNat - 16 * (ps.length - 1))

/-! ## Polynomials over GF(2), for 40 R150 -/

/-- The product of two polynomials of degree at most 7: bit i is the coefficient of x^i; the terms of b below x^n. -/
def polyProduct (a b : Byte) : Nat → BitVec 16
  | 0 => 0
  | n + 1 => polyProduct a b n ^^^ (if b.getLsbD n then a.setWidth 16 <<< n else 0)

/-- The remainder modulo x^8+x^7+x^6+x+1 (0x1C3), by long division from x^(n+7) down to x^8. -/
def polyRemainder : Nat → BitVec 16 → BitVec 16
  | 0, p => p
  | n + 1, p => polyRemainder n (if p.getLsbD (n + 8) then p ^^^ (0x1C3#16 <<< n) else p)

end Sys2Proof.Machine
end

