-- ==== Sys2Proof/Certificates/Slice0/Obligations.lean ====
section
/-! DEFINITION. The statements, from the numbered rules of spec/. -/

open Sys2Proof Sys2Proof.Machine

/-! ## Encoding and decoding -/

/-- R124, R120: the assembled word of a well-formed instruction decodes to it. -/
def Obligations.DecodeOfEncode : Prop := ∀ i : Instr, i.wellFormed = true → decode (encode i) = .ok i

/-- R118: a decoded instruction is well formed, and the bits its command does not use are the only ones its assembled word
drops. -/
def Obligations.UnusedFieldsIgnored : Prop :=
  ∀ (w : Word) (i : Instr), decode w = .ok i → i.wellFormed = true ∧ encode i = w &&& usedBits i

/-- R113, R115, R117, R119: a word is rejected exactly when a reserved bit is set, its OP is reserved, or it indexes a
round key above 9. -/
def Obligations.RejectedWords : Prop :=
  ∀ w : Word, (∃ e, decode w = .error e) ↔
    (w.getLsbD 19 = true ∨ w.getLsbD 23 = true ∨ ReservedOpcode (fieldOp w) ∨
      (fieldOp w ∈ roundKeyOpcodes ∧ 9 < (fieldImm w).toNat))

/-- R124: a word that matches a row of the opcode table is that row's legal command, but that the four round-key commands
also need IMM <= 9. -/
def Obligations.OpcodeTableRows : Prop :=
  ∀ row ∈ opcodeRows, ∀ w : Word, w &&& row.mask = row.pattern →
    (fieldOp w ∈ roundKeyOpcodes → (fieldImm w).toNat ≤ 9) →
    ∃ i, decode w = .ok i ∧ i.mnemonic = row.mnemonic ∧ ∀ other ∈ opcodeRows, w &&& other.mask = other.pattern → other = row

/-- R111: where the fields of the command word stand. -/
def Obligations.CommandWordFields : Prop :=
  ∀ w : Word,
    (fieldOp w).toNat = w.toNat % 2 ^ 8 ∧ (fieldLen w).toNat = w.toNat / 2 ^ 8 % 2 ^ 8 ∧
      (fieldD w).val = w.toNat / 2 ^ 16 % 8 ∧ (fieldS1 w).val = w.toNat / 2 ^ 20 % 8 ∧
      (fieldS2 w).val = w.toNat / 2 ^ 24 % 8 ∧ (fieldImm w).toNat = w.toNat / 2 ^ 27

/-- Words of 95_test_vectors section 3.9, one or two a family. -/
def Obligations.SpecWordsDecode : Prop :=
  decode 0x00000000#32 = .ok .nop ∧ decode 0x01021001#32 = .ok (.gfmul 16 2 0 1) ∧ decode 0x00011005#32 = .ok (.irstep 16 1 0) ∧
    decode 0x18011010#32 = .ok (.round 16 1 0 3) ∧ decode 0x48001014#32 = .ok (.rkld 16 0 9) ∧
    decode 0xF8050018#32 = .ok (.rcon 5 31) ∧ decode 0x0100201A#32 = .ok (.expand 32 0 1) ∧
    decode 0x00701022#32 = .ok (.cbcdStart 16 7) ∧ decode 0x00120F12#32 = .ok (.enc 15 2 1) ∧
    decode 0x010A1008#32 = .error .reservedBit ∧ decode 0x000000FF#32 = .error .reservedOpcode ∧
    decode 0x50011010#32 = .error .roundKeyIndex

/-! ## GF(256) multiply (40) -/

/-- R152. -/
def Obligations.GfmulCommand : Prop :=
  RunsAs 0x01#8 (fun w => .gfmul (fieldLen w) (fieldD w) (fieldS1 w) (fieldS2 w)) ∧
    ∀ (s : State) (len : Byte) (d s1 s2 : VReg),
      (len ≠ 16#8 → FailsWith (exec (.gfmul len d s1 s2) s) .invalidBlockSize s) ∧
        ∃ t, exec (.gfmul 16#8 d s1 s2) s = .next t ∧ WritesOnlyV d s t ∧
          ∀ j < 16, blockByte (t.readV d) j = gfmul (blockByte (s.readV s1) j) (blockByte (s.readV s2) j)

/-- R153. -/
def Obligations.GfmulLaws : Prop :=
  (∀ a b, gfmul a b = gfmul b a) ∧ (∀ a b c, gfmul (gfmul a b) c = gfmul a (gfmul b c)) ∧
    (∀ a b c, gfmul a (b ^^^ c) = gfmul a b ^^^ gfmul a c) ∧ (∀ a, gfmul a 0 = 0) ∧ (∀ a, gfmul a 1 = a) ∧
    gfmul 0x80#8 0x02#8 = 0xC3#8 ∧ ∀ a, a ≠ 0 → ∃ b, gfmul a b = 1

/-- R150: the product is the polynomial product modulo x^8+x^7+x^6+x+1. -/
def Obligations.GfmulIsPolynomialProduct : Prop :=
  ∀ a b : Byte, (gfmul a b).setWidth 16 = polyRemainder 8 (polyProduct a b 8)

/-! ## Substitution and diffusion (41) -/

/-- R163: byte-wise lookup, and mutual inverses, for every permutation PI (R13). -/
def Obligations.SubstitutionInverse : Prop :=
  ∀ rom : Rom, rom.WellFormed →
    (∀ b, ∀ j < 16, blockByte (substitute rom b) j = rom.pi (blockByte b j)) ∧
      (∀ b, ∀ j < 16, rom.pi (blockByte (inverseSubstitute rom b) j) = blockByte b j) ∧
      (∀ b, inverseSubstitute rom (substitute rom b) = b) ∧ ∀ b, substitute rom (inverseSubstitute rom b) = b

/-- R166: R_inv's bytes, and that it is the inverse of R, for every LCOEF with LCOEF[15] = 1. -/
def Obligations.DiffuseStepInverse : Prop :=
  ∀ rom : Rom, rom.lcoef 15 = 0x01#8 →
    (∀ b, ∀ i < 15, blockByte (inverseDiffuseStep rom b) i = blockByte b (i + 1)) ∧
      (∀ b, blockByte (inverseDiffuseStep rom b) 15 =
        blockByte b 0 ^^^ ((List.range 15).map fun i => gfmul (blockByte b (i + 1)) (rom.lcoef i)).foldr (· ^^^ ·) 0) ∧
      (∀ b, inverseDiffuseStep rom (diffuseStep rom b) = b) ∧ ∀ b, diffuseStep rom (inverseDiffuseStep rom b) = b

/-- R167: L is R applied 16 times, and linear over XOR. -/
def Obligations.DiffuseLinear : Prop :=
  ∀ rom : Rom, (∀ b, diffuse rom b = (diffuseStep rom)^[16] b) ∧
    (∀ a b, diffuse rom (a ^^^ b) = diffuse rom a ^^^ diffuse rom b) ∧ diffuse rom 0 = 0

/-- R168. -/
def Obligations.DiffuseInverse : Prop :=
  ∀ rom : Rom, rom.lcoef 15 = 0x01#8 →
    (∀ b, inverseDiffuse rom b = (inverseDiffuseStep rom)^[16] b) ∧ (∀ b, inverseDiffuse rom (diffuse rom b) = b) ∧
      ∀ b, diffuse rom (inverseDiffuse rom b) = b

/-- R170. -/
def Obligations.SubCommand : Prop :=
  RunsAs 0x02#8 (fun w => .sub (fieldLen w) (fieldD w) (fieldS1 w)) ∧
    ∀ (s : State) (len : Byte) (d s1 : VReg),
      (len ≠ 16#8 → FailsWith (exec (.sub len d s1) s) .invalidBlockSize s) ∧
        ∃ t, exec (.sub 16#8 d s1) s = .next t ∧ WritesOnlyV d s t ∧
          ∀ j < 16, blockByte (t.readV d) j = Config.piTable (blockByte (s.readV s1) j)

/-- R171: the byte that PI maps to the source's byte. -/
def Obligations.IsubCommand : Prop :=
  RunsAs 0x03#8 (fun w => .isub (fieldLen w) (fieldD w) (fieldS1 w)) ∧
    ∀ (s : State) (len : Byte) (d s1 : VReg),
      (len ≠ 16#8 → FailsWith (exec (.isub len d s1) s) .invalidBlockSize s) ∧
        ∃ t, exec (.isub 16#8 d s1) s = .next t ∧ WritesOnlyV d s t ∧
          ∀ j < 16, Config.piTable (blockByte (t.readV d) j) = blockByte (s.readV s1) j

/-- R172. -/
def Obligations.RstepCommand : Prop :=
  RunsAs 0x04#8 (fun w => .rstep (fieldLen w) (fieldD w) (fieldS1 w)) ∧
    ∀ (s : State) (len : Byte) (d s1 : VReg),
      (len ≠ 16#8 → FailsWith (exec (.rstep len d s1) s) .invalidBlockSize s) ∧
        ∃ t, exec (.rstep 16#8 d s1) s = .next t ∧ WritesOnlyV d s t ∧
          blockByte (t.readV d) 0 =
            ((List.range 16).map fun i => gfmul (blockByte (s.readV s1) i) (Config.lcoefTable.getD i 0)).foldr (· ^^^ ·) 0 ∧
          ∀ i < 15, blockByte (t.readV d) (i + 1) = blockByte (s.readV s1) i

/-- R173. -/
def Obligations.IrstepCommand : Prop :=
  RunsAs 0x05#8 (fun w => .irstep (fieldLen w) (fieldD w) (fieldS1 w)) ∧
    ∀ (s : State) (len : Byte) (d s1 : VReg),
      (len ≠ 16#8 → FailsWith (exec (.irstep len d s1) s) .invalidBlockSize s) ∧
        ∃ t, exec (.irstep 16#8 d s1) s = .next t ∧ WritesOnlyV d s t ∧
          (∀ i < 15, blockByte (t.readV d) i = blockByte (s.readV s1) (i + 1)) ∧
          blockByte (t.readV d) 15 = blockByte (s.readV s1) 0 ^^^
            ((List.range 15).map fun i => gfmul (blockByte (s.readV s1) (i + 1)) (Config.lcoefTable.getD i 0)).foldr (· ^^^ ·) 0

/-- R174. -/
def Obligations.LinCommand : Prop :=
  RunsAs 0x06#8 (fun w => .lin (fieldLen w) (fieldD w) (fieldS1 w)) ∧
    ∀ (s : State) (len : Byte) (d s1 : VReg),
      (len ≠ 16#8 → FailsWith (exec (.lin len d s1) s) .invalidBlockSize s) ∧
        ∃ t, exec (.lin 16#8 d s1) s = .next t ∧ WritesOnlyV d s t ∧
          t.readV d = (diffuseStep Config.rom)^[16] (s.readV s1)

/-- R175. -/
def Obligations.IlinCommand : Prop :=
  RunsAs 0x07#8 (fun w => .ilin (fieldLen w) (fieldD w) (fieldS1 w)) ∧
    ∀ (s : State) (len : Byte) (d s1 : VReg),
      (len ≠ 16#8 → FailsWith (exec (.ilin len d s1) s) .invalidBlockSize s) ∧
        ∃ t, exec (.ilin 16#8 d s1) s = .next t ∧ WritesOnlyV d s t ∧
          t.readV d = (inverseDiffuseStep Config.rom)^[16] (s.readV s1)

/-- R176, R169. -/
def Obligations.XorCommand : Prop :=
  RunsAs 0x08#8 (fun w => .xor (fieldLen w) (fieldD w) (fieldS1 w) (fieldS2 w)) ∧
    ∀ (s : State) (len : Byte) (d s1 s2 : VReg),
      (len ≠ 16#8 → FailsWith (exec (.xor len d s1 s2) s) .invalidBlockSize s) ∧
        ∃ t, exec (.xor 16#8 d s1 s2) s = .next t ∧ WritesOnlyV d s t ∧
          (∀ j < 16, blockByte (t.readV d) j = blockByte (s.readV s1) j ^^^ blockByte (s.readV s2) j) ∧
          (s1 = s2 → t.readV d = 0)

/-! ## Cipher core (42) -/

/-- R192. -/
def Obligations.RoundCommand : Prop :=
  RunsAsRoundKey 0x10#8 (fun w => .round (fieldLen w) (fieldD w) (fieldS1 w) (fieldImm w)) ∧
    ∀ (s : State) (len : Byte) (d s1 : VReg) (imm : Imm),
      (9 < imm.toNat → FailsWith (exec (.round len d s1 imm) s) .illegalCommand s) ∧
        (imm.toNat ≤ 9 → len ≠ 16#8 → FailsWith (exec (.round len d s1 imm) s) .invalidBlockSize s) ∧
        ∀ i : RKReg, imm.toNat = i.val → ∃ t, exec (.round 16#8 d s1 imm) s = .next t ∧ WritesOnlyV d s t ∧
          t.readV d = diffuse Config.rom (substitute Config.rom (s.readV s1 ^^^ s.readRK i))

/-- R193, with the corner case that IROUND with the same index undoes ROUND. -/
def Obligations.IroundCommand : Prop :=
  RunsAsRoundKey 0x11#8 (fun w => .iround (fieldLen w) (fieldD w) (fieldS1 w) (fieldImm w)) ∧
    ∀ (s : State) (len : Byte) (d s1 : VReg) (imm : Imm),
      (9 < imm.toNat → FailsWith (exec (.iround len d s1 imm) s) .illegalCommand s) ∧
        (imm.toNat ≤ 9 → len ≠ 16#8 → FailsWith (exec (.iround len d s1 imm) s) .invalidBlockSize s) ∧
        ∀ i : RKReg, imm.toNat = i.val → ∃ t, exec (.iround 16#8 d s1 imm) s = .next t ∧ WritesOnlyV d s t ∧
          t.readV d = inverseSubstitute Config.rom (inverseDiffuse Config.rom (s.readV s1)) ^^^ s.readRK i ∧
          ∀ p, s.readV s1 = diffuse Config.rom (substitute Config.rom (p ^^^ s.readRK i)) → t.readV d = p

/-- R194: the running value v, from the plaintext through the 9 rounds of R190. -/
def Obligations.EncCommand : Prop :=
  RunsAs 0x12#8 (fun w => .enc (fieldLen w) (fieldD w) (fieldS1 w)) ∧
    ∀ (s : State) (len : Byte) (d s1 : VReg),
      (len ≠ 16#8 → FailsWith (exec (.enc len d s1) s) .invalidBlockSize s) ∧
        ∃ t, exec (.enc 16#8 d s1) s = .next t ∧ WritesOnlyV d s t ∧
          ∀ v : Nat → Block, v 0 = s.readV s1 →
            (∀ i : Fin 9, v (i.val + 1) =
              diffuse Config.rom (substitute Config.rom (v i.val ^^^ s.readRK ⟨i.val, by omega⟩))) →
            t.readV d = v 9 ^^^ s.readRK 9

/-- R195: the running value v, v 9 = C XOR RK[9], then i = 8 downto 0 (R191). -/
def Obligations.DecCommand : Prop :=
  RunsAs 0x13#8 (fun w => .dec (fieldLen w) (fieldD w) (fieldS1 w)) ∧
    ∀ (s : State) (len : Byte) (d s1 : VReg),
      (len ≠ 16#8 → FailsWith (exec (.dec len d s1) s) .invalidBlockSize s) ∧
        ∃ t, exec (.dec 16#8 d s1) s = .next t ∧ WritesOnlyV d s t ∧
          ∀ v : Nat → Block, v 9 = s.readV s1 ^^^ s.readRK 9 →
            (∀ i : Fin 9, v i.val =
              inverseSubstitute Config.rom (inverseDiffuse Config.rom (v (i.val + 1))) ^^^ s.readRK ⟨i.val, by omega⟩) →
            t.readV d = v 0

/-- R196. -/
def Obligations.RkldCommand : Prop :=
  RunsAsRoundKey 0x14#8 (fun w => .rkld (fieldLen w) (fieldS1 w) (fieldImm w)) ∧
    ∀ (s : State) (len : Byte) (s1 : VReg) (imm : Imm),
      (9 < imm.toNat → FailsWith (exec (.rkld len s1 imm) s) .illegalCommand s) ∧
        (imm.toNat ≤ 9 → len ≠ 16#8 → FailsWith (exec (.rkld len s1 imm) s) .invalidBlockSize s) ∧
        ∀ i : RKReg, imm.toNat = i.val → ∃ t, exec (.rkld 16#8 s1 imm) s = .next t ∧
          t.readRK i = s.readV s1 ∧ (∀ j, j ≠ i → t.readRK j = s.readRK j) ∧
          KeepsV s t ∧ KeepsStream s t ∧ KeepsHostSide s t ∧ CompletedWith .ok t

/-- R197. -/
def Obligations.RkstCommand : Prop :=
  RunsAsRoundKey 0x15#8 (fun w => .rkst (fieldD w) (fieldImm w)) ∧
    ∀ (s : State) (d : VReg) (imm : Imm),
      (9 < imm.toNat → FailsWith (exec (.rkst d imm) s) .illegalCommand s) ∧
        ∀ i : RKReg, imm.toNat = i.val → ∃ t, exec (.rkst d imm) s = .next t ∧ WritesOnlyV d s t ∧
          t.readV d = s.readRK i

/-- R198: decryption undoes encryption, for every ROM contents, schedule and block, and as commands, at every ROM contents
and at the default ones. -/
def Obligations.BlockRoundTrip : Prop :=
  (∀ rom : Rom, rom.WellFormed → ∀ (rk : Vector Block 10) (p : Block),
      decryptBlock rom rk (encryptBlock rom rk p) = p) ∧
    (∀ rom : Rom, rom.WellFormed → ∀ (s : State) (p c q : VReg), ∃ t u, execWith rom (.enc 16#8 c p) s = .next t ∧
      execWith rom (.dec 16#8 q c) t = .next u ∧ u.readV q = s.readV p) ∧
    ∀ (s : State) (p c q : VReg), ∃ t u, exec (.enc 16#8 c p) s = .next t ∧ exec (.dec 16#8 q c) t = .next u ∧
      u.readV q = s.readV p

/-! ## Key schedule (43) -/

/-- R213, R210. -/
def Obligations.RconCommand : Prop :=
  RunsAs 0x18#8 (fun w => .rcon (fieldD w) (fieldImm w)) ∧
    ∀ (s : State) (d : VReg) (imm : Imm), ∃ t, exec (.rcon d imm) s = .next t ∧ WritesOnlyV d s t ∧
      (blockByte (t.readV d) 0).toNat = imm.toNat + 1 ∧ ∀ j, 0 < j → j < 16 → blockByte (t.readV d) j = 0

/-- R214. -/
def Obligations.FeistelCommand : Prop :=
  RunsAs 0x19#8 (fun w => .feistel (fieldLen w) (fieldD w) (fieldS1 w) (fieldS2 w) (fieldImm w)) ∧
    ∀ (s : State) (len : Byte) (d s1 s2 : VReg) (imm : Imm),
      (len ≠ 16#8 → FailsWith (exec (.feistel len d s1 s2 imm) s) .invalidBlockSize s) ∧
        ∃ t, exec (.feistel 16#8 d s1 s2 imm) s = .next t ∧ WritesOnlyV d s t ∧
          t.readV d =
            diffuse Config.rom (substitute Config.rom (s.readV s1 ^^^ roundConstant imm.toNat)) ^^^ s.readV s2

/-- R216, R212: the pair (l, r) through the 32 Feistel steps with C[0] to C[31]; keys 2i and 2i+1 are the pair after 8i
steps. -/
def Obligations.ExpandCommand : Prop :=
  RunsAs 0x1A#8 (fun w => .expand (fieldLen w) (fieldS1 w) (fieldS2 w)) ∧
    ∀ (s : State) (len : Byte) (s1 s2 : VReg),
      (len ≠ 32#8 → FailsWith (exec (.expand len s1 s2) s) .invalidKeySize s) ∧
        ∃ t, exec (.expand 32#8 s1 s2) s = .next t ∧ KeepsV s t ∧ KeepsStream s t ∧ KeepsHostSide s t ∧
          CompletedWith .ok t ∧
          ∀ l r : Nat → Block, l 0 = s.readV s1 → r 0 = s.readV s2 →
            (∀ m < 32, l (m + 1) = diffuse Config.rom (substitute Config.rom (l m ^^^ roundConstant m)) ^^^ r m ∧
              r (m + 1) = l m) →
            ∀ i : Fin 5, t.readRK ⟨2 * i.val, by omega⟩ = l (8 * i.val) ∧
              t.readRK ⟨2 * i.val + 1, by omega⟩ = r (8 * i.val)

/-- R215: the first two keys are the master-key halves, and while reset is released only the completion of an EXPAND or
RKLD changes the schedule. The steps are those of the model's agenda (log 2); that RK is kept at the assertion of reset, and
at a release with none asserted, is the model's choice (log 9), as is the completion with no turn left (log 10). -/
def Obligations.ScheduleShape : Prop :=
  (∀ (rom : Rom) (kl kr : Block), (expand rom kl kr)[0] = kl ∧ (expand rom kl kr)[1] = kr) ∧
    (∀ (i : Instr) (s t : State), exec i s = .next t → i.mnemonic ≠ "EXPAND" → i.mnemonic ≠ "RKLD" → KeepsRK s t) ∧
    ∀ s t : State, s.rstN = true → step s = .next t →
      (s.status.busy = true → ∀ i, decode s.cmd = .ok i → i.mnemonic ≠ "EXPAND" ∧ i.mnemonic ≠ "RKLD") → KeepsRK s t

/-! ## CBC streams (44) -/

/-- R232. -/
def Obligations.CbceStartCommand : Prop :=
  RunsAs 0x20#8 (fun w => .cbceStart (fieldLen w) (fieldS1 w)) ∧
    ∀ (s : State) (len : Byte) (s1 : VReg),
      (len ≠ 16#8 → FailsWith (exec (.cbceStart len s1) s) .invalidBlockSize s) ∧
        ∃ t, exec (.cbceStart 16#8 s1) s = .next t ∧ t.fb = s.readV s1 ∧ t.remain = s.slen ∧
          t.nblk.toNat = (s.slen.toNat + 15) / 16 ∧ t.status.mode = (if s.slen = 0 then .idle else .enc) ∧
          t.status.valid = s.status.valid ∧ KeepsV s t ∧ KeepsRK s t ∧ KeepsHostSide s t ∧ CompletedWith .ok t

/-- R233: the mode check, and what the command writes in mode ENC. -/
def Obligations.CbceBlockCommand : Prop :=
  RunsAs 0x21#8 (fun w => .cbceBlock (fieldLen w) (fieldD w) (fieldS1 w)) ∧
    ∀ (s : State) (len : Byte) (d s1 : VReg),
      (len ≠ 16#8 → FailsWith (exec (.cbceBlock len d s1) s) .invalidBlockSize s) ∧
        (s.status.mode ≠ .enc → FailsWith (exec (.cbceBlock 16#8 d s1) s) .sequenceError s) ∧
        (s.status.mode = .enc → ∃ t, exec (.cbceBlock 16#8 d s1) s = .next t ∧
          t.readV d = encryptBlock Config.rom s.rk (s.readV s1 ^^^ s.fb) ∧ t.fb = t.readV d ∧ t.status.valid = 16 ∧
          t.remain.toNat = s.remain.toNat - min 16 s.remain.toNat ∧ t.nblk = s.nblk - 1 ∧
          t.status.mode = (if t.nblk = 0 then .idle else .enc) ∧
          KeepsOtherV d s t ∧ KeepsRK s t ∧ KeepsHostSide s t ∧ CompletedWith .ok t)

/-- R236, R235. -/
def Obligations.CbcdStartCommand : Prop :=
  RunsAs 0x22#8 (fun w => .cbcdStart (fieldLen w) (fieldS1 w)) ∧
    ∀ (s : State) (len : Byte) (s1 : VReg),
      (len ≠ 16#8 → FailsWith (exec (.cbcdStart len s1) s) .invalidBlockSize s) ∧
        (s.flen.toNat < 24 → FailsWith (exec (.cbcdStart 16#8 s1) s) .frameTooShort s) ∧
        (24 ≤ s.flen.toNat → (s.flen.toNat - 24) % 16 ≠ 0 →
          FailsWith (exec (.cbcdStart 16#8 s1) s) .truncatedCiphertext s) ∧
        (24 ≤ s.flen.toNat → (s.flen.toNat - 24) % 16 = 0 → ∃ t, exec (.cbcdStart 16#8 s1) s = .next t ∧
          t.fb = s.readV s1 ∧ t.remain = s.slen ∧ t.nblk.toNat = (s.flen.toNat - 24) / 16 ∧
          t.status.mode = (if s.flen = 24 then .idle else .dec) ∧ t.status.valid = s.status.valid ∧
          KeepsV s t ∧ KeepsRK s t ∧ KeepsHostSide s t ∧ CompletedWith .ok t)

/-- R237: the mode check, and what the command writes in mode DEC. -/
def Obligations.CbcdBlockCommand : Prop :=
  RunsAs 0x23#8 (fun w => .cbcdBlock (fieldLen w) (fieldD w) (fieldS1 w)) ∧
    ∀ (s : State) (len : Byte) (d s1 : VReg),
      (len ≠ 16#8 → FailsWith (exec (.cbcdBlock len d s1) s) .invalidBlockSize s) ∧
        (s.status.mode ≠ .dec → FailsWith (exec (.cbcdBlock 16#8 d s1) s) .sequenceError s) ∧
        (s.status.mode = .dec → ∃ t, exec (.cbcdBlock 16#8 d s1) s = .next t ∧
          t.readV d = decryptBlock Config.rom s.rk (s.readV s1) ^^^ s.fb ∧ t.fb = s.readV s1 ∧
          t.status.valid.toNat = min 16 s.remain.toNat ∧ t.remain.toNat = s.remain.toNat - min 16 s.remain.toNat ∧
          t.nblk = s.nblk - 1 ∧ t.status.mode = (if t.nblk = 0 then .idle else .dec) ∧
          KeepsOtherV d s t ∧ KeepsRK s t ∧ KeepsHostSide s t ∧ CompletedWith .ok t)

/-- R238. -/
def Obligations.CbcAbortCommand : Prop :=
  RunsAs 0x24#8 (fun _ => .cbcAbort) ∧
    ∀ s : State, ∃ t, exec .cbcAbort s = .next t ∧ t.status.mode = .idle ∧ t.nblk = 0 ∧ t.remain = 0 ∧ t.fb = s.fb ∧
      t.status.valid = s.status.valid ∧ KeepsV s t ∧ KeepsRK s t ∧ KeepsHostSide s t ∧ CompletedWith .ok t

/-- R241: the mode transitions, and, while reset is released, that only a completion without error makes one. The steps
are those of the model's agenda (log 2); that MODE is kept at the assertion of reset, and at a release with none asserted,
is the model's choice (log 9), as are the completion with no turn left (log 10) and the mode after a block command at
NBLK = 0, which no run reaches (log 11). -/
def Obligations.ModeTransitions : Prop :=
  (∀ s t : State, s.rstN = true → step s = .next t → t.status.mode ≠ s.status.mode →
    s.status.busy = true ∧ t.status.busy = false ∧ t.status.err = .ok) ∧
  ∀ (i : Instr) (s t : State), exec i s = .next t →
    (t.status.err ≠ .ok → t.status.mode = s.status.mode) ∧
      (t.status.err = .ok →
        match i with
        | .cbceStart _ _ => t.status.mode = if (s.slen.toNat + 15) / 16 > 0 then .enc else .idle
        | .cbcdStart _ _ => t.status.mode = if s.flen = 24 then .idle else .dec
        | .cbceBlock _ _ _ => s.status.mode = .enc ∧ t.status.mode = if s.nblk = 1 then .idle else .enc
        | .cbcdBlock _ _ _ => s.status.mode = .dec ∧ t.status.mode = if s.nblk = 1 then .idle else .dec
        | .cbcAbort => t.status.mode = .idle
        | _ => t.status.mode = s.status.mode)

/-- R242: the non-stream commands do not touch the stream. -/
def Obligations.NonStreamCommandsKeepStream : Prop :=
  ∀ (i : Instr) (s t : State), exec i s = .next t → i.opcode.toNat < 0x20 → KeepsStream s t

/-- R234, R231: the host program of a stream reads back C1, ..., CN, closes the stream and has the words of the frame, for
the core (at the default ROM contents) and for every ROM contents. The host program is an agenda (log 2), what the host has
read is the model's read log (log 4). It is one of the programs R234 allows, the model's choice (log 20): IV in V7, blocks
through V0 and V1, and a wait for each completion that reads no STATUS (R95), not R122's polling. -/
def Obligations.StreamEncryption : Prop :=
  EncryptsStreams core.run Config.rom ∧ ∀ p : Parameters, EncryptsStreams (coreWith p).run p.rom

/-- R239, R240: the host program of a frame keeps the first VALID bytes of each block, which are the plaintext truncated to
min(SLEN, 16 N) bytes; and encrypting a stream and decrypting its frame gives the plaintext back. For the core (at the
default ROM contents) and for every ROM contents (log 2, log 4). Both programs, and so the words in the read log, are the
model's choice of those R234 and R239 allow (log 20): V7, V0 and V1, an encryption that reads no STATUS, a decryption that
reads STATUS once after each completion and makes no poll that reads BUSY = 1. What a frame shorter than 24 bytes puts into
SLEN and V7 is the model's choice too (log 21), as is decrypting a frame of 2^64 bytes or more (log 22), and no clause states
either. -/
def Obligations.StreamRoundTrip : Prop :=
  (DecryptsStreams core.run Config.rom ∧ RoundTripsStreams core.run Config.rom) ∧
    ∀ p : Parameters, DecryptsStreams (coreWith p).run p.rom ∧ RoundTripsStreams (coreWith p).run p.rom

/-! ## Control (45) -/

/-- R260. -/
def Obligations.NopCommand : Prop :=
  RunsAs 0x00#8 (fun _ => .nop) ∧
    ∀ s : State, ∃ t, exec .nop s = .next t ∧ KeepsV s t ∧ KeepsRK s t ∧ KeepsStream s t ∧ KeepsHostSide s t ∧
      CompletedWith .ok t

/-! ## The command life cycle and errors (30, 60) -/

/-- A step runs the decoded command: with the sequencer's turn next, the step is `exec` of the instruction the word in CMD
decodes to, on the state with that turn taken off the agenda. With BUSY = 0 that turn leaves the state as it is (R290), and a
host's turn is the port's access (R92). With no turn on the agenda the step is the sequencer's: that is the model's choice
(log 10), as the agenda is (log 2). The core is the machine with parameters at the default ROM contents (R13). -/
def Obligations.StepRunsDecodedCommand : Prop :=
  (∀ s : State, s.rstN = true →
    (∀ i, s.status.busy = true → decode s.cmd = .ok i →
      (s.agenda = [] → step s = exec i s) ∧
        ∀ rest, s.agenda = .sequencer :: rest → step s = exec i { s with agenda := rest }) ∧
    (s.status.busy = false →
      (s.agenda = [] → step s = .next s) ∧
        ∀ rest, s.agenda = .sequencer :: rest → step s = .next { s with agenda := rest }) ∧
    ∀ a rest, s.agenda = .host a :: rest → step s = .next ({ s with agenda := rest }.portAccess a)) ∧
  ∀ p : Parameters, p.rom = Config.rom → coreWith p = core

/-- R125: a CMD write the port accepts. -/
def Obligations.CommandIssue : Prop :=
  ∀ (s : State) (rest : List Turn) (off : Byte) (w : Word), s.rstN = true → s.agenda = .host (.write off w) :: rest →
    off.toNat / 4 = 3 →
    (s.status.busy = false →
      step s = .next { s with
        agenda := rest, cmd := w, status := { s.status with busy := true, done := false } }) ∧
      (s.status.busy = true → step s = .next { s with agenda := rest, status := { s.status with wovr := true } })

/-- R119, R126, R277: no step stops, and the sequencer's turn completes every executing command, whatever its word. -/
def Obligations.EveryWordCompletes : Prop :=
  (∀ s : State, ∃ t, step s = .next t) ∧
    ∀ (s : State) (rest : List Turn), s.rstN = true → s.status.busy = true → s.agenda = .sequencer :: rest →
      ∃ t, step s = .next t ∧ t.status.busy = false ∧ t.status.done = true ∧ t.cmd = s.cmd ∧
        ((∃ e, decode s.cmd = .error e) → t.status.err = .illegalCommand)

/-- R272: the checks, in order; and when none fails, the command succeeds. -/
def Obligations.ErrorPriority : Prop :=
  ∀ s : State,
    (s.cmd.getLsbD 19 = true ∨ s.cmd.getLsbD 23 = true → FailsWith (runCommand s) .illegalCommand s) ∧
    (s.cmd.getLsbD 19 = false → s.cmd.getLsbD 23 = false →
      (ReservedOpcode (fieldOp s.cmd) → FailsWith (runCommand s) .illegalCommand s) ∧
      (fieldOp s.cmd ∈ roundKeyOpcodes → 9 < (fieldImm s.cmd).toNat → FailsWith (runCommand s) .illegalCommand s) ∧
      (fieldOp s.cmd = 0x1A#8 → fieldLen s.cmd ≠ 32#8 → FailsWith (runCommand s) .invalidKeySize s) ∧
      ((fieldOp s.cmd ∈ roundKeyOpcodes → (fieldImm s.cmd).toNat ≤ 9) → fieldOp s.cmd ∈ blockLenOpcodes →
        (fieldLen s.cmd ≠ 16#8 → FailsWith (runCommand s) .invalidBlockSize s) ∧
        (fieldLen s.cmd = 16#8 →
          (fieldOp s.cmd = 0x21#8 → s.status.mode ≠ .enc → FailsWith (runCommand s) .sequenceError s) ∧
          (fieldOp s.cmd = 0x23#8 → s.status.mode ≠ .dec → FailsWith (runCommand s) .sequenceError s) ∧
          (fieldOp s.cmd = 0x22#8 → s.flen.toNat < 24 → FailsWith (runCommand s) .frameTooShort s) ∧
          (fieldOp s.cmd = 0x22#8 → 24 ≤ s.flen.toNat → (s.flen.toNat - 24) % 16 ≠ 0 →
            FailsWith (runCommand s) .truncatedCiphertext s) ∧
          ((fieldOp s.cmd = 0x21#8 → s.status.mode = .enc) → (fieldOp s.cmd = 0x23#8 → s.status.mode = .dec) →
            (fieldOp s.cmd = 0x22#8 → 24 ≤ s.flen.toNat ∧ (s.flen.toNat - 24) % 16 = 0) →
            ∃ t, runCommand s = .next t ∧ t.status.err = .ok))) ∧
      (fieldOp s.cmd = 0x1A#8 → fieldLen s.cmd = 32#8 → ∃ t, runCommand s = .next t ∧ t.status.err = .ok) ∧
      (fieldOp s.cmd ∈ noLenOpcodes → (fieldOp s.cmd = 0x15#8 → (fieldImm s.cmd).toNat ≤ 9) →
        ∃ t, runCommand s = .next t ∧ t.status.err = .ok))

/-- R271: the codes each command can leave. -/
def Obligations.ErrorCodesPerCommand : Prop :=
  ∀ s t : State, runCommand s = .next t →
    (fieldOp s.cmd ∈ noLenOpcodes → t.status.err.code ∈ [0#8, 5#8]) ∧
    (fieldOp s.cmd ∈ blockLenOpcodes → fieldOp s.cmd ≠ 0x21#8 → fieldOp s.cmd ≠ 0x22#8 → fieldOp s.cmd ≠ 0x23#8 →
      t.status.err.code ∈ [0#8, 1#8, 5#8]) ∧
    (fieldOp s.cmd = 0x1A#8 → t.status.err.code ∈ [0#8, 2#8, 5#8]) ∧
    (fieldOp s.cmd = 0x21#8 ∨ fieldOp s.cmd = 0x23#8 → t.status.err.code ∈ [0#8, 1#8, 5#8, 6#8]) ∧
    (fieldOp s.cmd = 0x22#8 → t.status.err.code ∈ [0#8, 1#8, 3#8, 4#8, 5#8]) ∧
    (ReservedOpcode (fieldOp s.cmd) → t.status.err.code = 5#8)

/-- R276: an error is precise: the state is as before, apart from ERR, DONE and BUSY, and the word stays in CMD. -/
def Obligations.ErrorsArePrecise : Prop :=
  ∀ s t : State, runCommand s = .next t → t.status.err ≠ .ok →
    t = { s with status := { s.status with err := t.status.err, done := true, busy := false } }

/-- R93: whatever the hosts do between acceptance and completion, the command reads its operands, and leaves its results,
as if it had completed at once. -/
def Obligations.HostCannotDisturbCommand : Prop :=
  ∀ (s : State) (accesses : List Access) (rest : List Turn), s.rstN = true → s.status.busy = true →
    s.agenda = accesses.map .host ++ .sequencer :: rest →
    ∃ t u, core.run (accesses.length + 1) s = .next t ∧ runCommand s = .next u ∧
      t.v = u.v ∧ t.rk = u.rk ∧ t.fb = u.fb ∧ t.slen = u.slen ∧ t.flen = u.flen ∧ t.remain = u.remain ∧
      t.nblk = u.nblk ∧ t.cmd = u.cmd ∧ t.status.mode = u.status.mode ∧ t.status.valid = u.status.valid ∧
      t.status.err = u.status.err ∧ t.status.done = true ∧ t.status.busy = false ∧ t.agenda = rest

/-- R43: an executing command completes, after at most the turns the environment has left and one more, unless reset is
asserted first. The turns are the model's agenda (log 2); that one more step completes the command once they are used up is
the model's choice (log 10), and so is that a release of reset with none asserted changes nothing (log 9). -/
def Obligations.CommandEventuallyCompletes : Prop :=
  ∀ s : State, s.rstN = true → s.status.busy = true → Turn.assertReset ∉ s.agenda →
    ∃ k t, k ≤ s.agenda.length + 1 ∧ core.run k s = .next t ∧ t.status.busy = false ∧ t.status.done = true ∧
      t.cmd = s.cmd

/-! ## The register window (20) -/

/-- R82, R84, R40, R83, R39: offset bits 1:0 are ignored, and what reads of the idle core return. -/
def Obligations.WindowReads : Prop :=
  (∀ (s : State) (off : Byte) (w : Word), s.portAccess (.read off) = s.portAccess (.read (off &&& 0xFC#8)) ∧
    s.portAccess (.write off w) = s.portAccess (.write (off &&& 0xFC#8) w)) ∧
  ∀ s : State, s.status.busy = false →
    (s.portRead 0x00#8).reads = 0x4B5A4331#32 :: s.reads ∧
    (s.portRead 0x0C#8).reads = s.cmd :: s.reads ∧
    (s.portRead 0x10#8).reads = s.slen.extractLsb' 32 32 :: s.reads ∧
    (s.portRead 0x14#8).reads = s.slen.extractLsb' 0 32 :: s.reads ∧
    (s.portRead 0x18#8).reads = s.flen.extractLsb' 32 32 :: s.reads ∧
    (s.portRead 0x1C#8).reads = s.flen.extractLsb' 0 32 :: s.reads ∧
    (s.portRead 0x20#8).reads = s.remain.extractLsb' 32 32 :: s.reads ∧
    (s.portRead 0x24#8).reads = s.remain.extractLsb' 0 32 :: s.reads ∧
    (s.portRead 0x28#8).reads = s.nblk.extractLsb' 32 32 :: s.reads ∧
    (s.portRead 0x2C#8).reads = s.nblk.extractLsb' 0 32 :: s.reads ∧
    (∀ off : Byte, (0x30 ≤ off.toNat ∧ off.toNat < 0x40) ∨ 0xC0 ≤ off.toNat → (s.portRead off).reads = 0#32 :: s.reads) ∧
    ∀ off : Byte, ∃ w, s.portRead off = { s with reads := w :: s.reads }

/-- R86, R83: what writes to the idle core's read-only, reserved and 64-bit registers do. -/
def Obligations.WindowWrites : Prop :=
  ∀ (s : State) (w : Word), s.status.busy = false →
    (∀ off : Byte, off.toNat < 4 ∨ (0x20 ≤ off.toNat ∧ off.toNat < 0x40) ∨ 0xC0 ≤ off.toNat → s.portWrite off w = s) ∧
    s.portWrite 0x10#8 w = { s with slen := w ++ s.slen.extractLsb' 0 32 } ∧
    s.portWrite 0x14#8 w = { s with slen := s.slen.extractLsb' 32 32 ++ w } ∧
    s.portWrite 0x18#8 w = { s with flen := w ++ s.flen.extractLsb' 0 32 } ∧
    s.portWrite 0x1C#8 w = { s with flen := s.flen.extractLsb' 32 32 ++ w }

/-- R85: word k of V[n] holds bytes 4k to 4k+3, the lowest-numbered in the high bits; a write changes those four only. -/
def Obligations.BlockRegisterWords : Prop :=
  ∀ (s : State) (n : VReg) (k : Fin 4) (w : Word), s.status.busy = false →
    (∃ x, (s.portRead (offV n k)).reads = x :: s.reads ∧
      x.toNat = (blockByte (s.readV n) (4 * k.val)).toNat * 2 ^ 24 + (blockByte (s.readV n) (4 * k.val + 1)).toNat * 2 ^ 16 +
        (blockByte (s.readV n) (4 * k.val + 2)).toNat * 2 ^ 8 + (blockByte (s.readV n) (4 * k.val + 3)).toNat) ∧
    (∀ j < 16, blockByte ((s.portWrite (offV n k) w).readV n) j =
      if j / 4 = k.val then w.extractLsb' (8 * (3 - j % 4)) 8 else blockByte (s.readV n) j) ∧
    KeepsOtherV n s (s.portWrite (offV n k) w) ∧ KeepsRK s (s.portWrite (offV n k) w) ∧
    KeepsStream s (s.portWrite (offV n k) w) ∧ KeepsHostSide s (s.portWrite (offV n k) w) ∧
    (s.portWrite (offV n k) w).status = s.status

/-- R87: host accesses while BUSY = 1. -/
def Obligations.AccessWhileBusy : Prop :=
  ∀ (s : State) (off : Byte) (w : Word), s.status.busy = true →
    ((off.toNat < 0x20 ∨ (0x30 ≤ off.toNat ∧ off.toNat < 0x40) ∨ 0xC0 ≤ off.toNat) →
      s.portRead off = { s with reads := s.regRead (windowReg off) :: s.reads }) ∧
    ((0x20 ≤ off.toNat ∧ off.toNat < 0x30) ∨ (0x40 ≤ off.toNat ∧ off.toNat < 0xC0) →
      s.portRead off = { s with reads := Config.freeWord s.draws :: s.reads, draws := s.draws + 1 }) ∧
    (off.toNat / 4 = 1 → s.portWrite off w = { s with ctrl := { ie := w.getLsbD 0 } }) ∧
    (off.toNat / 4 = 2 → s.portWrite off w = { s with status := { s.status with
      done := s.status.done && !w.getLsbD 1, wovr := s.status.wovr && !w.getLsbD 2 } }) ∧
    (off.toNat / 4 ≠ 1 → off.toNat / 4 ≠ 2 → s.portWrite off w = { s with status := { s.status with wovr := true } })

/-- R42, R41: the STATUS and CTRL words' fields, their value at reset, and what a write to each does, whatever BUSY is. -/
def Obligations.StatusAndCtrlRegisters : Prop :=
  State.reset.regRead .status = 0 ∧ State.reset.regRead .ctrl = 0 ∧
  ∀ (s : State) (w : Word),
    s.portRead 0x04#8 = { s with reads := (if s.ctrl.ie then 1#32 else 0#32) :: s.reads } ∧
    s.portWrite 0x04#8 w = { s with ctrl := { ie := w.getLsbD 0 } } ∧
    (∃ x : Word, (s.portRead 0x08#8) = { s with reads := x :: s.reads } ∧
      x.toNat = s.status.busy.toNat + 2 * s.status.done.toNat + 4 * s.status.wovr.toNat +
        16 * (match s.status.mode with | .idle => 0 | .enc => 1 | .dec => 2) + 256 * s.status.valid.toNat +
        65536 * s.status.err.code.toNat) ∧
    s.portWrite 0x08#8 w = { s with status := { s.status with
      done := s.status.done && !w.getLsbD 1, wovr := s.status.wovr && !w.getLsbD 2 } }

/-- R33, R34: the port neither shows nor changes RK and FB. -/
def Obligations.ScheduleNotHostMapped : Prop :=
  ∀ (s : State) (rk : Vector Block 10) (fb : Block) (a : Access),
    { s with rk := rk, fb := fb }.portAccess a = { s.portAccess a with rk := rk, fb := fb }

/-! ## The interrupt (10, 60) -/

/-- R275, R50: IRQ is the level IE AND DONE, 0 after reset; any completion drives it to IE, an acceptance, a W1C of DONE or
clearing IE drops it, and a dropped write leaves it. -/
def Obligations.InterruptLevel : Prop :=
  (∀ s : State, s.irq = true ↔ s.ctrl.ie = true ∧ s.status.done = true) ∧ State.reset.irq = false ∧
  (∀ s t : State, runCommand s = .next t → t.irq = s.ctrl.ie) ∧
    ∀ (s : State) (w : Word),
      (s.status.busy = false → (s.portWrite 0x0C#8 w).irq = false) ∧
      (w.getLsbD 1 = true → (s.portWrite 0x08#8 w).irq = false) ∧
      (w.getLsbD 0 = false → (s.portWrite 0x04#8 w).irq = false) ∧
      ∀ off : Byte, s.status.busy = true → off.toNat / 4 ≠ 1 → off.toNat / 4 ≠ 2 → (s.portWrite off w).irq = s.irq

/-! ## Reset (10, 70) -/

/-- R300, R55: asserting reset abandons the executing command, none of whose writes takes effect; while reset is asserted
the port accepts no access and nothing executes; and when it is released the state is R55's, whatever it was (V, RK and FB,
which R55 leaves unspecified, are not stated). -/
def Obligations.ResetSequence : Prop :=
  ∀ (s : State) (a : Access) (rest : List Turn),
    (s.agenda = .assertReset :: rest → ∃ t, step s = .next t ∧ t.rstN = false ∧ t.status.busy = false ∧ KeepsV s t ∧
      KeepsRK s t ∧ KeepsStream s t ∧ t.agenda = rest) ∧
    (s.rstN = false →
      (s.agenda = .sequencer :: rest → step s = .next { s with agenda := rest }) ∧
      (s.agenda = .host a :: rest → step s = .next { s with agenda := rest }) ∧
      (s.agenda = .releaseReset :: rest → ∃ t, step s = .next t ∧ t.slen = 0 ∧ t.flen = 0 ∧ t.remain = 0 ∧ t.nblk = 0 ∧
        t.ctrl.ie = false ∧ t.regRead .status = 0 ∧ t.cmd = 0 ∧ t.irq = false ∧ t.regRead .id = 0x4B5A4331#32 ∧
        t.rstN = true ∧ t.agenda = rest))

/-- The invariant holds at reset. -/
def Obligations.ResetMeetsInvariant : Prop := State.reset.Inv

/-- Every step keeps the invariant. -/
def Obligations.StepKeepsInvariant : Prop := ∀ s t : State, s.Inv → step s = .next t → t.Inv

/-! ## Instances (60) -/

/-- R288, R13: a system has at least one instance; an instance's step leaves every other instance as it was, and every
instance steps with the same ROM contents. Which instance moves is an argument (log 14). -/
def Obligations.InstancesIndependent : Prop :=
  ∀ (p : Parameters) (sys sys' : System) (k : Nat), sys.stepAt p k = .next sys' →
    1 ≤ sys.nInst ∧ sys'.nInst = sys.nInst ∧ (∀ j, j ≠ k → sys'.cores[j]? = sys.cores[j]?) ∧
      ∀ s, sys.cores[k]? = some s → ∃ t, stepWith p.rom s = .next t ∧ sys'.cores[k]? = some t
end

