-- ==== Sys2Proof/Laws/Bytes.lean ====
section
/-! SUPPORT. The bytes of a block: reading a packed byte, extensionality, XOR, words and halves. -/

namespace Sys2Proof.Machine

theorem packBytes_getLsbD (f : Nat → Byte) (n i : Nat) (hn : n ≤ 16) (hi : i < 8 * n) :
    (packBytes f n).getLsbD i = (f (n - 1 - i / 8)).getLsbD (i % 8) := by
  induction n generalizing i with
  | zero => omega
  | succ n ih =>
    simp only [packBytes, BitVec.getLsbD_or, BitVec.getLsbD_shiftLeft, BitVec.getLsbD_setWidth]
    by_cases h : i < 8
    · have h1 : i / 8 = 0 := by omega
      have h2 : i % 8 = i := by omega
      have h3 : i < 128 := by omega
      simp [h, h1, h2, h3]
    · have h1 : n + 1 - 1 - i / 8 = n - 1 - (i - 8) / 8 := by omega
      have h2 : i % 8 = (i - 8) % 8 := by omega
      have h3 : i < 128 := by omega
      rw [h1, h2, ← ih (i - 8) (by omega) (by omega)]
      have h4 : (f n).getLsbD i = false := BitVec.getLsbD_of_ge _ _ (by omega)
      simp [h, h3, h4]

/-- Byte j of the block made of f is f j. -/
theorem blockByte_blockOfBytes (f : Nat → Byte) {j : Nat} (hj : j < 16) : blockByte (blockOfBytes f) j = f j := by
  apply BitVec.eq_of_getLsbD_eq
  intro i hi
  have h1 : 16 - 1 - (8 * (15 - j) + i) / 8 = j := by omega
  have h2 : (8 * (15 - j) + i) % 8 = i := by omega
  simp only [blockByte, blockOfBytes, BitVec.getLsbD_extractLsb', hi, decide_true, Bool.true_and]
  rw [packBytes_getLsbD f 16 _ (by omega) (by omega), h1, h2]

/-- A block is its 16 bytes (00_scope R15). -/
theorem block_ext {a b : Block} (h : ∀ j < 16, blockByte a j = blockByte b j) : a = b := by
  apply BitVec.eq_of_getLsbD_eq
  intro i hi
  have hb := congrArg (fun x => x.getLsbD (i % 8)) (h (15 - i / 8) (by omega))
  have h1 : 8 * (15 - (15 - i / 8)) + i % 8 = i := by omega
  have h2 : i % 8 < 8 := by omega
  simpa [blockByte, h1, h2] using hb

/-- XOR of blocks is byte by byte (41 R169). -/
@[simp] theorem blockByte_xor (a b : Block) (j : Nat) : blockByte (a ^^^ b) j = blockByte a j ^^^ blockByte b j := by
  apply BitVec.eq_of_getLsbD_eq
  intro i hi
  simp only [blockByte, BitVec.getLsbD_xor, BitVec.getLsbD_extractLsb', hi, decide_true, Bool.true_and]

@[simp] theorem blockByte_zero (j : Nat) : blockByte 0 j = 0 := by
  apply BitVec.eq_of_getLsbD_eq
  intro i hi
  simp [blockByte]

theorem blockOfBytes_blockByte (b : Block) : blockOfBytes (blockByte b) = b :=
  block_ext fun _ hj => blockByte_blockOfBytes _ hj

/-- Byte m of the concatenation of four bytes. -/
theorem wordByte_append (a b c d : Byte) :
    wordByte (a ++ b ++ c ++ d) 0 = a ∧ wordByte (a ++ b ++ c ++ d) 1 = b ∧
      wordByte (a ++ b ++ c ++ d) 2 = c ∧ wordByte (a ++ b ++ c ++ d) 3 = d := by
  refine ⟨?_, ?_, ?_, ?_⟩ <;>
    (apply BitVec.eq_of_getLsbD_eq
     intro i hi
     simp only [wordByte, BitVec.getLsbD_append, BitVec.getLsbD_extractLsb', hi, decide_true, Bool.true_and]
     split_ifs <;> first | omega | (congr 1; omega))

/-- A word is its four bytes. -/
theorem word_of_wordBytes (w : Word) : wordByte w 0 ++ wordByte w 1 ++ wordByte w 2 ++ wordByte w 3 = w := by
  apply BitVec.eq_of_getLsbD_eq
  intro i hi
  simp only [wordByte, BitVec.getLsbD_append, BitVec.getLsbD_extractLsb']
  split
  · simp; omega
  · split
    · have h : i - 8 < 8 := by omega
      have e : 8 + (i - 8) = i := by omega
      simp [h, e]
    · split
      · have h : i - 8 - 8 < 8 := by omega
        have e : 16 + (i - 8 - 8) = i := by omega
        simp [h, e]
      · have h : i - 8 - 8 - 8 < 8 := by omega
        have e : 24 + (i - 8 - 8 - 8) = i := by omega
        simp [h, e]

/-- The bytes of a block after word k is replaced. -/
theorem blockByte_setBlockWord (b : Block) (k : Fin 4) (w : Word) {j : Nat} (hj : j < 16) :
    blockByte (setBlockWord b k w) j = if j / 4 = k.val then wordByte w (j % 4) else blockByte b j :=
  blockByte_blockOfBytes _ hj

/-- The word written is the word read. -/
@[simp] theorem blockWord_setBlockWord_same (b : Block) (k : Fin 4) (w : Word) :
    blockWord (setBlockWord b k w) k = w := by
  have hk := k.isLt
  rw [blockWord, blockByte_setBlockWord b k w (by omega), blockByte_setBlockWord b k w (by omega),
    blockByte_setBlockWord b k w (by omega), blockByte_setBlockWord b k w (by omega)]
  have d0 : 4 * k.val / 4 = k.val := by omega
  have d1 : (4 * k.val + 1) / 4 = k.val := by omega
  have d2 : (4 * k.val + 2) / 4 = k.val := by omega
  have d3 : (4 * k.val + 3) / 4 = k.val := by omega
  have m0 : 4 * k.val % 4 = 0 := by omega
  have m1 : (4 * k.val + 1) % 4 = 1 := by omega
  have m2 : (4 * k.val + 2) % 4 = 2 := by omega
  have m3 : (4 * k.val + 3) % 4 = 3 := by omega
  simp only [d0, d1, d2, d3, m0, m1, m2, m3, if_true]
  exact word_of_wordBytes w

/-- Byte 4k+m of a block is byte m of its word k. -/
theorem wordByte_blockWord (b : Block) (k : Fin 4) {m : Nat} (hm : m < 4) :
    wordByte (blockWord b k) m = blockByte b (4 * k.val + m) := by
  have h := wordByte_append (blockByte b (4 * k.val)) (blockByte b (4 * k.val + 1)) (blockByte b (4 * k.val + 2))
    (blockByte b (4 * k.val + 3))
  obtain rfl | rfl | rfl | rfl : m = 0 ∨ m = 1 ∨ m = 2 ∨ m = 3 := by omega
  · exact h.1
  · exact h.2.1
  · exact h.2.2.1
  · exact h.2.2.2

@[simp] theorem hiWord_setHiWord (x : Dword) (w : Word) : hiWord (setHiWord x w) = w := by
  apply BitVec.eq_of_getLsbD_eq
  intro i hi
  simp only [hiWord, setHiWord, loWord, BitVec.getLsbD_append, BitVec.getLsbD_extractLsb', hi, decide_true, Bool.true_and]
  split_ifs <;> first | rfl | omega | (congr 1; omega)

@[simp] theorem loWord_setHiWord (x : Dword) (w : Word) : loWord (setHiWord x w) = loWord x := by
  apply BitVec.eq_of_getLsbD_eq
  intro i hi
  simp only [loWord, setHiWord, Nat.zero_add, BitVec.getLsbD_append, BitVec.getLsbD_extractLsb', hi, decide_true, Bool.true_and]
  split_ifs <;> rfl

@[simp] theorem hiWord_setLoWord (x : Dword) (w : Word) : hiWord (setLoWord x w) = hiWord x := by
  apply BitVec.eq_of_getLsbD_eq
  intro i hi
  have h : ¬ 32 + i < 32 := by omega
  have e : 32 + i - 32 = i := by omega
  simp only [hiWord, setLoWord, BitVec.getLsbD_append, BitVec.getLsbD_extractLsb', hi, h, e, decide_true, Bool.true_and, if_false]

@[simp] theorem loWord_setLoWord (x : Dword) (w : Word) : loWord (setLoWord x w) = w := by
  apply BitVec.eq_of_getLsbD_eq
  intro i hi
  simp only [loWord, setLoWord, hiWord, BitVec.getLsbD_append, BitVec.getLsbD_extractLsb', hi, decide_true, Bool.true_and]
  split_ifs <;> first | rfl | omega | (congr 1; omega)

/-- A 64-bit register is its two words (10_state R39). -/
theorem dword_of_words (x : Dword) : hiWord x ++ loWord x = x := by
  apply BitVec.eq_of_getLsbD_eq
  intro i hi
  simp only [hiWord, loWord, BitVec.getLsbD_append, BitVec.getLsbD_extractLsb']
  split
  · simp; omega
  · have h : i - 32 < 32 := by omega
    have e : 32 + (i - 32) = i := by omega
    simp [h, e]

end Sys2Proof.Machine
end

