-- ==== Sys2Proof/Laws/Decode.lean ====
section
/-! SUPPORT. The fields of an assembled word, and register fields. -/

namespace Sys2Proof

@[simp] theorem regOfField_fieldOfReg (r : VReg) : regOfField (fieldOfReg r) = r := by
  revert r; decide

@[simp] theorem fieldOfReg_regOfField (x : BitVec 3) : fieldOfReg (regOfField x) = x := by
  apply BitVec.eq_of_toNat_eq
  simp [fieldOfReg, regOfField]

/-- Bits of an append below the lower part's width, and above it. -/
theorem extractLsb'_append_low {m n : Nat} (x : BitVec m) (y : BitVec n) (a k : Nat) (h : a + k ≤ n) :
    (x ++ y).extractLsb' a k = y.extractLsb' a k := by
  apply BitVec.eq_of_getLsbD_eq
  intro i hi
  simp only [BitVec.getLsbD_extractLsb', BitVec.getLsbD_append, hi, decide_true, Bool.true_and]
  rw [if_pos (by omega)]

theorem extractLsb'_append_high {m n : Nat} (x : BitVec m) (y : BitVec n) (a k : Nat) (h : n ≤ a) :
    (x ++ y).extractLsb' a k = x.extractLsb' (a - n) k := by
  apply BitVec.eq_of_getLsbD_eq
  intro i hi
  simp only [BitVec.getLsbD_extractLsb', BitVec.getLsbD_append, hi, decide_true, Bool.true_and]
  rw [if_neg (by omega), show a + i - n = a - n + i by omega]

theorem extractLsb'_self {n : Nat} (x : BitVec n) : x.extractLsb' 0 n = x := by
  apply BitVec.eq_of_getLsbD_eq
  intro i hi
  simp only [BitVec.getLsbD_extractLsb', hi, decide_true, Bool.true_and, Nat.zero_add]

section Fields
variable (op len : Byte) (d s1 s2 : VReg) (imm : Imm)

@[simp] theorem fieldOp_packFields : fieldOp (packFields op len d s1 s2 imm) = op := by
  unfold fieldOp packFields
  rw [extractLsb'_append_low _ _ _ _ (by omega), extractLsb'_self]

@[simp] theorem fieldLen_packFields : fieldLen (packFields op len d s1 s2 imm) = len := by
  unfold fieldLen packFields
  rw [extractLsb'_append_high _ _ _ _ (by omega), extractLsb'_append_low _ _ _ _ (by omega)]
  exact extractLsb'_self len

@[simp] theorem fieldD_packFields : fieldD (packFields op len d s1 s2 imm) = d := by
  unfold fieldD packFields
  rw [extractLsb'_append_high _ _ _ _ (by omega), extractLsb'_append_high _ _ _ _ (by omega),
    extractLsb'_append_low _ _ _ _ (by omega)]
  exact (congrArg regOfField (extractLsb'_self _)).trans (regOfField_fieldOfReg d)

@[simp] theorem fieldS1_packFields : fieldS1 (packFields op len d s1 s2 imm) = s1 := by
  unfold fieldS1 packFields
  rw [extractLsb'_append_high _ _ _ _ (by omega), extractLsb'_append_high _ _ _ _ (by omega),
    extractLsb'_append_high _ _ _ _ (by omega), extractLsb'_append_high _ _ _ _ (by omega),
    extractLsb'_append_low _ _ _ _ (by omega)]
  exact (congrArg regOfField (extractLsb'_self _)).trans (regOfField_fieldOfReg s1)

@[simp] theorem fieldS2_packFields : fieldS2 (packFields op len d s1 s2 imm) = s2 := by
  unfold fieldS2 packFields
  rw [extractLsb'_append_high _ _ _ _ (by omega), extractLsb'_append_high _ _ _ _ (by omega),
    extractLsb'_append_high _ _ _ _ (by omega), extractLsb'_append_high _ _ _ _ (by omega),
    extractLsb'_append_high _ _ _ _ (by omega), extractLsb'_append_high _ _ _ _ (by omega),
    extractLsb'_append_low _ _ _ _ (by omega)]
  exact (congrArg regOfField (extractLsb'_self _)).trans (regOfField_fieldOfReg s2)

@[simp] theorem fieldImm_packFields : fieldImm (packFields op len d s1 s2 imm) = imm := by
  unfold fieldImm packFields
  rw [extractLsb'_append_high _ _ _ _ (by omega), extractLsb'_append_high _ _ _ _ (by omega),
    extractLsb'_append_high _ _ _ _ (by omega), extractLsb'_append_high _ _ _ _ (by omega),
    extractLsb'_append_high _ _ _ _ (by omega), extractLsb'_append_high _ _ _ _ (by omega),
    extractLsb'_append_high _ _ _ _ (by omega)]
  exact extractLsb'_self imm

/-- An assembled word has both reserved bits 0 (30_encoding R113). -/
@[simp] theorem reservedBitSet_packFields : reservedBitSet (packFields op len d s1 s2 imm) = false := by
  simp only [reservedBitSet, packFields, BitVec.getLsbD_append]
  rfl

end Fields

end Sys2Proof
end

