-- ==== Sys2Proof/Laws/State.lean ====
section
/-! SUPPORT. One lemma per field of State per update (Machine/Ops.lean), and what the register reads see after each. -/

namespace Sys2Proof.Machine

/-! ### writeV -/

@[simp] theorem writeV_v (s : State) (n : VReg) (b : Block) : (s.writeV n b).v = s.v.set n.val b := rfl
@[simp] theorem writeV_rk (s : State) (n : VReg) (b : Block) : (s.writeV n b).rk = s.rk := rfl
@[simp] theorem writeV_fb (s : State) (n : VReg) (b : Block) : (s.writeV n b).fb = s.fb := rfl
@[simp] theorem writeV_slen (s : State) (n : VReg) (b : Block) : (s.writeV n b).slen = s.slen := rfl
@[simp] theorem writeV_flen (s : State) (n : VReg) (b : Block) : (s.writeV n b).flen = s.flen := rfl
@[simp] theorem writeV_remain (s : State) (n : VReg) (b : Block) : (s.writeV n b).remain = s.remain := rfl
@[simp] theorem writeV_nblk (s : State) (n : VReg) (b : Block) : (s.writeV n b).nblk = s.nblk := rfl
@[simp] theorem writeV_ctrl (s : State) (n : VReg) (b : Block) : (s.writeV n b).ctrl = s.ctrl := rfl
@[simp] theorem writeV_status (s : State) (n : VReg) (b : Block) : (s.writeV n b).status = s.status := rfl
@[simp] theorem writeV_cmd (s : State) (n : VReg) (b : Block) : (s.writeV n b).cmd = s.cmd := rfl
@[simp] theorem writeV_rstN (s : State) (n : VReg) (b : Block) : (s.writeV n b).rstN = s.rstN := rfl
@[simp] theorem writeV_agenda (s : State) (n : VReg) (b : Block) : (s.writeV n b).agenda = s.agenda := rfl
@[simp] theorem writeV_reads (s : State) (n : VReg) (b : Block) : (s.writeV n b).reads = s.reads := rfl
@[simp] theorem writeV_draws (s : State) (n : VReg) (b : Block) : (s.writeV n b).draws = s.draws := rfl
@[simp] theorem readRK_writeV (s : State) (n : VReg) (b : Block) (m : RKReg) : (s.writeV n b).readRK m = s.readRK m := rfl

/-! ### writeRK -/

@[simp] theorem writeRK_v (s : State) (i : RKReg) (b : Block) : (s.writeRK i b).v = s.v := rfl
@[simp] theorem writeRK_rk (s : State) (i : RKReg) (b : Block) : (s.writeRK i b).rk = s.rk.set i.val b := rfl
@[simp] theorem writeRK_fb (s : State) (i : RKReg) (b : Block) : (s.writeRK i b).fb = s.fb := rfl
@[simp] theorem writeRK_slen (s : State) (i : RKReg) (b : Block) : (s.writeRK i b).slen = s.slen := rfl
@[simp] theorem writeRK_flen (s : State) (i : RKReg) (b : Block) : (s.writeRK i b).flen = s.flen := rfl
@[simp] theorem writeRK_remain (s : State) (i : RKReg) (b : Block) : (s.writeRK i b).remain = s.remain := rfl
@[simp] theorem writeRK_nblk (s : State) (i : RKReg) (b : Block) : (s.writeRK i b).nblk = s.nblk := rfl
@[simp] theorem writeRK_ctrl (s : State) (i : RKReg) (b : Block) : (s.writeRK i b).ctrl = s.ctrl := rfl
@[simp] theorem writeRK_status (s : State) (i : RKReg) (b : Block) : (s.writeRK i b).status = s.status := rfl
@[simp] theorem writeRK_cmd (s : State) (i : RKReg) (b : Block) : (s.writeRK i b).cmd = s.cmd := rfl
@[simp] theorem writeRK_rstN (s : State) (i : RKReg) (b : Block) : (s.writeRK i b).rstN = s.rstN := rfl
@[simp] theorem writeRK_agenda (s : State) (i : RKReg) (b : Block) : (s.writeRK i b).agenda = s.agenda := rfl
@[simp] theorem writeRK_reads (s : State) (i : RKReg) (b : Block) : (s.writeRK i b).reads = s.reads := rfl
@[simp] theorem writeRK_draws (s : State) (i : RKReg) (b : Block) : (s.writeRK i b).draws = s.draws := rfl
@[simp] theorem readV_writeRK (s : State) (i : RKReg) (b : Block) (m : VReg) : (s.writeRK i b).readV m = s.readV m := rfl

/-! ### writeSchedule -/

@[simp] theorem writeSchedule_v (s : State) (k : Vector Block 10) : (s.writeSchedule k).v = s.v := rfl
@[simp] theorem writeSchedule_rk (s : State) (k : Vector Block 10) : (s.writeSchedule k).rk = k := rfl
@[simp] theorem writeSchedule_fb (s : State) (k : Vector Block 10) : (s.writeSchedule k).fb = s.fb := rfl
@[simp] theorem writeSchedule_slen (s : State) (k : Vector Block 10) : (s.writeSchedule k).slen = s.slen := rfl
@[simp] theorem writeSchedule_flen (s : State) (k : Vector Block 10) : (s.writeSchedule k).flen = s.flen := rfl
@[simp] theorem writeSchedule_remain (s : State) (k : Vector Block 10) : (s.writeSchedule k).remain = s.remain := rfl
@[simp] theorem writeSchedule_nblk (s : State) (k : Vector Block 10) : (s.writeSchedule k).nblk = s.nblk := rfl
@[simp] theorem writeSchedule_ctrl (s : State) (k : Vector Block 10) : (s.writeSchedule k).ctrl = s.ctrl := rfl
@[simp] theorem writeSchedule_status (s : State) (k : Vector Block 10) : (s.writeSchedule k).status = s.status := rfl
@[simp] theorem writeSchedule_cmd (s : State) (k : Vector Block 10) : (s.writeSchedule k).cmd = s.cmd := rfl
@[simp] theorem writeSchedule_rstN (s : State) (k : Vector Block 10) : (s.writeSchedule k).rstN = s.rstN := rfl
@[simp] theorem writeSchedule_agenda (s : State) (k : Vector Block 10) : (s.writeSchedule k).agenda = s.agenda := rfl
@[simp] theorem writeSchedule_reads (s : State) (k : Vector Block 10) : (s.writeSchedule k).reads = s.reads := rfl
@[simp] theorem writeSchedule_draws (s : State) (k : Vector Block 10) : (s.writeSchedule k).draws = s.draws := rfl
@[simp] theorem readV_writeSchedule (s : State) (k : Vector Block 10) (m : VReg) : (s.writeSchedule k).readV m = s.readV m := rfl

/-! ### writeFB -/

@[simp] theorem writeFB_v (s : State) (b : Block) : (s.writeFB b).v = s.v := rfl
@[simp] theorem writeFB_rk (s : State) (b : Block) : (s.writeFB b).rk = s.rk := rfl
@[simp] theorem writeFB_fb (s : State) (b : Block) : (s.writeFB b).fb = b := rfl
@[simp] theorem writeFB_slen (s : State) (b : Block) : (s.writeFB b).slen = s.slen := rfl
@[simp] theorem writeFB_flen (s : State) (b : Block) : (s.writeFB b).flen = s.flen := rfl
@[simp] theorem writeFB_remain (s : State) (b : Block) : (s.writeFB b).remain = s.remain := rfl
@[simp] theorem writeFB_nblk (s : State) (b : Block) : (s.writeFB b).nblk = s.nblk := rfl
@[simp] theorem writeFB_ctrl (s : State) (b : Block) : (s.writeFB b).ctrl = s.ctrl := rfl
@[simp] theorem writeFB_status (s : State) (b : Block) : (s.writeFB b).status = s.status := rfl
@[simp] theorem writeFB_cmd (s : State) (b : Block) : (s.writeFB b).cmd = s.cmd := rfl
@[simp] theorem writeFB_rstN (s : State) (b : Block) : (s.writeFB b).rstN = s.rstN := rfl
@[simp] theorem writeFB_agenda (s : State) (b : Block) : (s.writeFB b).agenda = s.agenda := rfl
@[simp] theorem writeFB_reads (s : State) (b : Block) : (s.writeFB b).reads = s.reads := rfl
@[simp] theorem writeFB_draws (s : State) (b : Block) : (s.writeFB b).draws = s.draws := rfl
@[simp] theorem readV_writeFB (s : State) (b : Block) (m : VReg) : (s.writeFB b).readV m = s.readV m := rfl
@[simp] theorem readRK_writeFB (s : State) (b : Block) (m : RKReg) : (s.writeFB b).readRK m = s.readRK m := rfl

/-! ### issue -/

@[simp] theorem issue_v (s : State) (w : Word) : (s.issue w).v = s.v := rfl
@[simp] theorem issue_rk (s : State) (w : Word) : (s.issue w).rk = s.rk := rfl
@[simp] theorem issue_fb (s : State) (w : Word) : (s.issue w).fb = s.fb := rfl
@[simp] theorem issue_slen (s : State) (w : Word) : (s.issue w).slen = s.slen := rfl
@[simp] theorem issue_flen (s : State) (w : Word) : (s.issue w).flen = s.flen := rfl
@[simp] theorem issue_remain (s : State) (w : Word) : (s.issue w).remain = s.remain := rfl
@[simp] theorem issue_nblk (s : State) (w : Word) : (s.issue w).nblk = s.nblk := rfl
@[simp] theorem issue_ctrl (s : State) (w : Word) : (s.issue w).ctrl = s.ctrl := rfl
@[simp] theorem issue_status (s : State) (w : Word) : (s.issue w).status = { s.status with busy := true, done := false } := rfl
@[simp] theorem issue_cmd (s : State) (w : Word) : (s.issue w).cmd = w := rfl
@[simp] theorem issue_rstN (s : State) (w : Word) : (s.issue w).rstN = s.rstN := rfl
@[simp] theorem issue_agenda (s : State) (w : Word) : (s.issue w).agenda = s.agenda := rfl
@[simp] theorem issue_reads (s : State) (w : Word) : (s.issue w).reads = s.reads := rfl
@[simp] theorem issue_draws (s : State) (w : Word) : (s.issue w).draws = s.draws := rfl
@[simp] theorem readV_issue (s : State) (w : Word) (m : VReg) : (s.issue w).readV m = s.readV m := rfl
@[simp] theorem readRK_issue (s : State) (w : Word) (m : RKReg) : (s.issue w).readRK m = s.readRK m := rfl

/-! ### complete -/

@[simp] theorem complete_v (s : State) (c : ErrCode) : (s.complete c).v = s.v := rfl
@[simp] theorem complete_rk (s : State) (c : ErrCode) : (s.complete c).rk = s.rk := rfl
@[simp] theorem complete_fb (s : State) (c : ErrCode) : (s.complete c).fb = s.fb := rfl
@[simp] theorem complete_slen (s : State) (c : ErrCode) : (s.complete c).slen = s.slen := rfl
@[simp] theorem complete_flen (s : State) (c : ErrCode) : (s.complete c).flen = s.flen := rfl
@[simp] theorem complete_remain (s : State) (c : ErrCode) : (s.complete c).remain = s.remain := rfl
@[simp] theorem complete_nblk (s : State) (c : ErrCode) : (s.complete c).nblk = s.nblk := rfl
@[simp] theorem complete_ctrl (s : State) (c : ErrCode) : (s.complete c).ctrl = s.ctrl := rfl
@[simp] theorem complete_status (s : State) (c : ErrCode) : (s.complete c).status = { s.status with err := c, done := true, busy := false } := rfl
@[simp] theorem complete_cmd (s : State) (c : ErrCode) : (s.complete c).cmd = s.cmd := rfl
@[simp] theorem complete_rstN (s : State) (c : ErrCode) : (s.complete c).rstN = s.rstN := rfl
@[simp] theorem complete_agenda (s : State) (c : ErrCode) : (s.complete c).agenda = s.agenda := rfl
@[simp] theorem complete_reads (s : State) (c : ErrCode) : (s.complete c).reads = s.reads := rfl
@[simp] theorem complete_draws (s : State) (c : ErrCode) : (s.complete c).draws = s.draws := rfl
@[simp] theorem readV_complete (s : State) (c : ErrCode) (m : VReg) : (s.complete c).readV m = s.readV m := rfl
@[simp] theorem readRK_complete (s : State) (c : ErrCode) (m : RKReg) : (s.complete c).readRK m = s.readRK m := rfl

/-! ### acknowledge -/

@[simp] theorem acknowledge_v (s : State) (w : Word) : (s.acknowledge w).v = s.v := rfl
@[simp] theorem acknowledge_rk (s : State) (w : Word) : (s.acknowledge w).rk = s.rk := rfl
@[simp] theorem acknowledge_fb (s : State) (w : Word) : (s.acknowledge w).fb = s.fb := rfl
@[simp] theorem acknowledge_slen (s : State) (w : Word) : (s.acknowledge w).slen = s.slen := rfl
@[simp] theorem acknowledge_flen (s : State) (w : Word) : (s.acknowledge w).flen = s.flen := rfl
@[simp] theorem acknowledge_remain (s : State) (w : Word) : (s.acknowledge w).remain = s.remain := rfl
@[simp] theorem acknowledge_nblk (s : State) (w : Word) : (s.acknowledge w).nblk = s.nblk := rfl
@[simp] theorem acknowledge_ctrl (s : State) (w : Word) : (s.acknowledge w).ctrl = s.ctrl := rfl
@[simp] theorem acknowledge_status (s : State) (w : Word) : (s.acknowledge w).status = s.status.writeOneToClear w := rfl
@[simp] theorem acknowledge_cmd (s : State) (w : Word) : (s.acknowledge w).cmd = s.cmd := rfl
@[simp] theorem acknowledge_rstN (s : State) (w : Word) : (s.acknowledge w).rstN = s.rstN := rfl
@[simp] theorem acknowledge_agenda (s : State) (w : Word) : (s.acknowledge w).agenda = s.agenda := rfl
@[simp] theorem acknowledge_reads (s : State) (w : Word) : (s.acknowledge w).reads = s.reads := rfl
@[simp] theorem acknowledge_draws (s : State) (w : Word) : (s.acknowledge w).draws = s.draws := rfl
@[simp] theorem readV_acknowledge (s : State) (w : Word) (m : VReg) : (s.acknowledge w).readV m = s.readV m := rfl
@[simp] theorem readRK_acknowledge (s : State) (w : Word) (m : RKReg) : (s.acknowledge w).readRK m = s.readRK m := rfl

/-! ### overrun -/

@[simp] theorem overrun_v (s : State) : (s.overrun).v = s.v := rfl
@[simp] theorem overrun_rk (s : State) : (s.overrun).rk = s.rk := rfl
@[simp] theorem overrun_fb (s : State) : (s.overrun).fb = s.fb := rfl
@[simp] theorem overrun_slen (s : State) : (s.overrun).slen = s.slen := rfl
@[simp] theorem overrun_flen (s : State) : (s.overrun).flen = s.flen := rfl
@[simp] theorem overrun_remain (s : State) : (s.overrun).remain = s.remain := rfl
@[simp] theorem overrun_nblk (s : State) : (s.overrun).nblk = s.nblk := rfl
@[simp] theorem overrun_ctrl (s : State) : (s.overrun).ctrl = s.ctrl := rfl
@[simp] theorem overrun_status (s : State) : (s.overrun).status = { s.status with wovr := true } := rfl
@[simp] theorem overrun_cmd (s : State) : (s.overrun).cmd = s.cmd := rfl
@[simp] theorem overrun_rstN (s : State) : (s.overrun).rstN = s.rstN := rfl
@[simp] theorem overrun_agenda (s : State) : (s.overrun).agenda = s.agenda := rfl
@[simp] theorem overrun_reads (s : State) : (s.overrun).reads = s.reads := rfl
@[simp] theorem overrun_draws (s : State) : (s.overrun).draws = s.draws := rfl
@[simp] theorem readV_overrun (s : State) (m : VReg) : (s.overrun).readV m = s.readV m := rfl
@[simp] theorem readRK_overrun (s : State) (m : RKReg) : (s.overrun).readRK m = s.readRK m := rfl

/-! ### writeCtrl -/

@[simp] theorem writeCtrl_v (s : State) (w : Word) : (s.writeCtrl w).v = s.v := rfl
@[simp] theorem writeCtrl_rk (s : State) (w : Word) : (s.writeCtrl w).rk = s.rk := rfl
@[simp] theorem writeCtrl_fb (s : State) (w : Word) : (s.writeCtrl w).fb = s.fb := rfl
@[simp] theorem writeCtrl_slen (s : State) (w : Word) : (s.writeCtrl w).slen = s.slen := rfl
@[simp] theorem writeCtrl_flen (s : State) (w : Word) : (s.writeCtrl w).flen = s.flen := rfl
@[simp] theorem writeCtrl_remain (s : State) (w : Word) : (s.writeCtrl w).remain = s.remain := rfl
@[simp] theorem writeCtrl_nblk (s : State) (w : Word) : (s.writeCtrl w).nblk = s.nblk := rfl
@[simp] theorem writeCtrl_ctrl (s : State) (w : Word) : (s.writeCtrl w).ctrl = Ctrl.ofWord w := rfl
@[simp] theorem writeCtrl_status (s : State) (w : Word) : (s.writeCtrl w).status = s.status := rfl
@[simp] theorem writeCtrl_cmd (s : State) (w : Word) : (s.writeCtrl w).cmd = s.cmd := rfl
@[simp] theorem writeCtrl_rstN (s : State) (w : Word) : (s.writeCtrl w).rstN = s.rstN := rfl
@[simp] theorem writeCtrl_agenda (s : State) (w : Word) : (s.writeCtrl w).agenda = s.agenda := rfl
@[simp] theorem writeCtrl_reads (s : State) (w : Word) : (s.writeCtrl w).reads = s.reads := rfl
@[simp] theorem writeCtrl_draws (s : State) (w : Word) : (s.writeCtrl w).draws = s.draws := rfl
@[simp] theorem readV_writeCtrl (s : State) (w : Word) (m : VReg) : (s.writeCtrl w).readV m = s.readV m := rfl
@[simp] theorem readRK_writeCtrl (s : State) (w : Word) (m : RKReg) : (s.writeCtrl w).readRK m = s.readRK m := rfl

/-! ### writeSlen -/

@[simp] theorem writeSlen_v (s : State) (x : Dword) : (s.writeSlen x).v = s.v := rfl
@[simp] theorem writeSlen_rk (s : State) (x : Dword) : (s.writeSlen x).rk = s.rk := rfl
@[simp] theorem writeSlen_fb (s : State) (x : Dword) : (s.writeSlen x).fb = s.fb := rfl
@[simp] theorem writeSlen_slen (s : State) (x : Dword) : (s.writeSlen x).slen = x := rfl
@[simp] theorem writeSlen_flen (s : State) (x : Dword) : (s.writeSlen x).flen = s.flen := rfl
@[simp] theorem writeSlen_remain (s : State) (x : Dword) : (s.writeSlen x).remain = s.remain := rfl
@[simp] theorem writeSlen_nblk (s : State) (x : Dword) : (s.writeSlen x).nblk = s.nblk := rfl
@[simp] theorem writeSlen_ctrl (s : State) (x : Dword) : (s.writeSlen x).ctrl = s.ctrl := rfl
@[simp] theorem writeSlen_status (s : State) (x : Dword) : (s.writeSlen x).status = s.status := rfl
@[simp] theorem writeSlen_cmd (s : State) (x : Dword) : (s.writeSlen x).cmd = s.cmd := rfl
@[simp] theorem writeSlen_rstN (s : State) (x : Dword) : (s.writeSlen x).rstN = s.rstN := rfl
@[simp] theorem writeSlen_agenda (s : State) (x : Dword) : (s.writeSlen x).agenda = s.agenda := rfl
@[simp] theorem writeSlen_reads (s : State) (x : Dword) : (s.writeSlen x).reads = s.reads := rfl
@[simp] theorem writeSlen_draws (s : State) (x : Dword) : (s.writeSlen x).draws = s.draws := rfl
@[simp] theorem readV_writeSlen (s : State) (x : Dword) (m : VReg) : (s.writeSlen x).readV m = s.readV m := rfl
@[simp] theorem readRK_writeSlen (s : State) (x : Dword) (m : RKReg) : (s.writeSlen x).readRK m = s.readRK m := rfl

/-! ### writeFlen -/

@[simp] theorem writeFlen_v (s : State) (x : Dword) : (s.writeFlen x).v = s.v := rfl
@[simp] theorem writeFlen_rk (s : State) (x : Dword) : (s.writeFlen x).rk = s.rk := rfl
@[simp] theorem writeFlen_fb (s : State) (x : Dword) : (s.writeFlen x).fb = s.fb := rfl
@[simp] theorem writeFlen_slen (s : State) (x : Dword) : (s.writeFlen x).slen = s.slen := rfl
@[simp] theorem writeFlen_flen (s : State) (x : Dword) : (s.writeFlen x).flen = x := rfl
@[simp] theorem writeFlen_remain (s : State) (x : Dword) : (s.writeFlen x).remain = s.remain := rfl
@[simp] theorem writeFlen_nblk (s : State) (x : Dword) : (s.writeFlen x).nblk = s.nblk := rfl
@[simp] theorem writeFlen_ctrl (s : State) (x : Dword) : (s.writeFlen x).ctrl = s.ctrl := rfl
@[simp] theorem writeFlen_status (s : State) (x : Dword) : (s.writeFlen x).status = s.status := rfl
@[simp] theorem writeFlen_cmd (s : State) (x : Dword) : (s.writeFlen x).cmd = s.cmd := rfl
@[simp] theorem writeFlen_rstN (s : State) (x : Dword) : (s.writeFlen x).rstN = s.rstN := rfl
@[simp] theorem writeFlen_agenda (s : State) (x : Dword) : (s.writeFlen x).agenda = s.agenda := rfl
@[simp] theorem writeFlen_reads (s : State) (x : Dword) : (s.writeFlen x).reads = s.reads := rfl
@[simp] theorem writeFlen_draws (s : State) (x : Dword) : (s.writeFlen x).draws = s.draws := rfl
@[simp] theorem readV_writeFlen (s : State) (x : Dword) (m : VReg) : (s.writeFlen x).readV m = s.readV m := rfl
@[simp] theorem readRK_writeFlen (s : State) (x : Dword) (m : RKReg) : (s.writeFlen x).readRK m = s.readRK m := rfl

/-! ### returnWord -/

@[simp] theorem returnWord_v (s : State) (w : Word) : (s.returnWord w).v = s.v := rfl
@[simp] theorem returnWord_rk (s : State) (w : Word) : (s.returnWord w).rk = s.rk := rfl
@[simp] theorem returnWord_fb (s : State) (w : Word) : (s.returnWord w).fb = s.fb := rfl
@[simp] theorem returnWord_slen (s : State) (w : Word) : (s.returnWord w).slen = s.slen := rfl
@[simp] theorem returnWord_flen (s : State) (w : Word) : (s.returnWord w).flen = s.flen := rfl
@[simp] theorem returnWord_remain (s : State) (w : Word) : (s.returnWord w).remain = s.remain := rfl
@[simp] theorem returnWord_nblk (s : State) (w : Word) : (s.returnWord w).nblk = s.nblk := rfl
@[simp] theorem returnWord_ctrl (s : State) (w : Word) : (s.returnWord w).ctrl = s.ctrl := rfl
@[simp] theorem returnWord_status (s : State) (w : Word) : (s.returnWord w).status = s.status := rfl
@[simp] theorem returnWord_cmd (s : State) (w : Word) : (s.returnWord w).cmd = s.cmd := rfl
@[simp] theorem returnWord_rstN (s : State) (w : Word) : (s.returnWord w).rstN = s.rstN := rfl
@[simp] theorem returnWord_agenda (s : State) (w : Word) : (s.returnWord w).agenda = s.agenda := rfl
@[simp] theorem returnWord_reads (s : State) (w : Word) : (s.returnWord w).reads = w :: s.reads := rfl
@[simp] theorem returnWord_draws (s : State) (w : Word) : (s.returnWord w).draws = s.draws := rfl
@[simp] theorem readV_returnWord (s : State) (w : Word) (m : VReg) : (s.returnWord w).readV m = s.readV m := rfl
@[simp] theorem readRK_returnWord (s : State) (w : Word) (m : RKReg) : (s.returnWord w).readRK m = s.readRK m := rfl

/-! ### returnDraw -/

@[simp] theorem returnDraw_v (s : State) : (s.returnDraw).v = s.v := rfl
@[simp] theorem returnDraw_rk (s : State) : (s.returnDraw).rk = s.rk := rfl
@[simp] theorem returnDraw_fb (s : State) : (s.returnDraw).fb = s.fb := rfl
@[simp] theorem returnDraw_slen (s : State) : (s.returnDraw).slen = s.slen := rfl
@[simp] theorem returnDraw_flen (s : State) : (s.returnDraw).flen = s.flen := rfl
@[simp] theorem returnDraw_remain (s : State) : (s.returnDraw).remain = s.remain := rfl
@[simp] theorem returnDraw_nblk (s : State) : (s.returnDraw).nblk = s.nblk := rfl
@[simp] theorem returnDraw_ctrl (s : State) : (s.returnDraw).ctrl = s.ctrl := rfl
@[simp] theorem returnDraw_status (s : State) : (s.returnDraw).status = s.status := rfl
@[simp] theorem returnDraw_cmd (s : State) : (s.returnDraw).cmd = s.cmd := rfl
@[simp] theorem returnDraw_rstN (s : State) : (s.returnDraw).rstN = s.rstN := rfl
@[simp] theorem returnDraw_agenda (s : State) : (s.returnDraw).agenda = s.agenda := rfl
@[simp] theorem returnDraw_reads (s : State) : (s.returnDraw).reads = Config.freeWord s.draws :: s.reads := rfl
@[simp] theorem returnDraw_draws (s : State) : (s.returnDraw).draws = s.draws + 1 := rfl
@[simp] theorem readV_returnDraw (s : State) (m : VReg) : (s.returnDraw).readV m = s.readV m := rfl
@[simp] theorem readRK_returnDraw (s : State) (m : RKReg) : (s.returnDraw).readRK m = s.readRK m := rfl

/-! ### openStream -/

@[simp] theorem openStream_v (s : State) (md : Mode) (iv : Block) (n : Dword) : (s.openStream md iv n).v = s.v := rfl
@[simp] theorem openStream_rk (s : State) (md : Mode) (iv : Block) (n : Dword) : (s.openStream md iv n).rk = s.rk := rfl
@[simp] theorem openStream_fb (s : State) (md : Mode) (iv : Block) (n : Dword) : (s.openStream md iv n).fb = iv := rfl
@[simp] theorem openStream_slen (s : State) (md : Mode) (iv : Block) (n : Dword) : (s.openStream md iv n).slen = s.slen := rfl
@[simp] theorem openStream_flen (s : State) (md : Mode) (iv : Block) (n : Dword) : (s.openStream md iv n).flen = s.flen := rfl
@[simp] theorem openStream_remain (s : State) (md : Mode) (iv : Block) (n : Dword) : (s.openStream md iv n).remain = s.slen := rfl
@[simp] theorem openStream_nblk (s : State) (md : Mode) (iv : Block) (n : Dword) : (s.openStream md iv n).nblk = n := rfl
@[simp] theorem openStream_ctrl (s : State) (md : Mode) (iv : Block) (n : Dword) : (s.openStream md iv n).ctrl = s.ctrl := rfl
@[simp] theorem openStream_status (s : State) (md : Mode) (iv : Block) (n : Dword) : (s.openStream md iv n).status = { s.status with mode := modeWithBlocks md n } := rfl
@[simp] theorem openStream_cmd (s : State) (md : Mode) (iv : Block) (n : Dword) : (s.openStream md iv n).cmd = s.cmd := rfl
@[simp] theorem openStream_rstN (s : State) (md : Mode) (iv : Block) (n : Dword) : (s.openStream md iv n).rstN = s.rstN := rfl
@[simp] theorem openStream_agenda (s : State) (md : Mode) (iv : Block) (n : Dword) : (s.openStream md iv n).agenda = s.agenda := rfl
@[simp] theorem openStream_reads (s : State) (md : Mode) (iv : Block) (n : Dword) : (s.openStream md iv n).reads = s.reads := rfl
@[simp] theorem openStream_draws (s : State) (md : Mode) (iv : Block) (n : Dword) : (s.openStream md iv n).draws = s.draws := rfl
@[simp] theorem readV_openStream (s : State) (md : Mode) (iv : Block) (n : Dword) (m : VReg) : (s.openStream md iv n).readV m = s.readV m := rfl
@[simp] theorem readRK_openStream (s : State) (md : Mode) (iv : Block) (n : Dword) (m : RKReg) : (s.openStream md iv n).readRK m = s.readRK m := rfl

/-! ### advanceStream -/

@[simp] theorem advanceStream_v (s : State) (x : BitVec 5) : (s.advanceStream x).v = s.v := rfl
@[simp] theorem advanceStream_rk (s : State) (x : BitVec 5) : (s.advanceStream x).rk = s.rk := rfl
@[simp] theorem advanceStream_fb (s : State) (x : BitVec 5) : (s.advanceStream x).fb = s.fb := rfl
@[simp] theorem advanceStream_slen (s : State) (x : BitVec 5) : (s.advanceStream x).slen = s.slen := rfl
@[simp] theorem advanceStream_flen (s : State) (x : BitVec 5) : (s.advanceStream x).flen = s.flen := rfl
@[simp] theorem advanceStream_remain (s : State) (x : BitVec 5) : (s.advanceStream x).remain = s.remain - (validCount s.remain).setWidth 64 := rfl
@[simp] theorem advanceStream_nblk (s : State) (x : BitVec 5) : (s.advanceStream x).nblk = s.nblk - 1 := rfl
@[simp] theorem advanceStream_ctrl (s : State) (x : BitVec 5) : (s.advanceStream x).ctrl = s.ctrl := rfl
@[simp] theorem advanceStream_status (s : State) (x : BitVec 5) : (s.advanceStream x).status = { s.status with valid := x, mode := modeWithBlocks s.status.mode (s.nblk - 1) } := rfl
@[simp] theorem advanceStream_cmd (s : State) (x : BitVec 5) : (s.advanceStream x).cmd = s.cmd := rfl
@[simp] theorem advanceStream_rstN (s : State) (x : BitVec 5) : (s.advanceStream x).rstN = s.rstN := rfl
@[simp] theorem advanceStream_agenda (s : State) (x : BitVec 5) : (s.advanceStream x).agenda = s.agenda := rfl
@[simp] theorem advanceStream_reads (s : State) (x : BitVec 5) : (s.advanceStream x).reads = s.reads := rfl
@[simp] theorem advanceStream_draws (s : State) (x : BitVec 5) : (s.advanceStream x).draws = s.draws := rfl
@[simp] theorem readV_advanceStream (s : State) (x : BitVec 5) (m : VReg) : (s.advanceStream x).readV m = s.readV m := rfl
@[simp] theorem readRK_advanceStream (s : State) (x : BitVec 5) (m : RKReg) : (s.advanceStream x).readRK m = s.readRK m := rfl

/-! ### closeStream -/

@[simp] theorem closeStream_v (s : State) : (s.closeStream).v = s.v := rfl
@[simp] theorem closeStream_rk (s : State) : (s.closeStream).rk = s.rk := rfl
@[simp] theorem closeStream_fb (s : State) : (s.closeStream).fb = s.fb := rfl
@[simp] theorem closeStream_slen (s : State) : (s.closeStream).slen = s.slen := rfl
@[simp] theorem closeStream_flen (s : State) : (s.closeStream).flen = s.flen := rfl
@[simp] theorem closeStream_remain (s : State) : (s.closeStream).remain = 0 := rfl
@[simp] theorem closeStream_nblk (s : State) : (s.closeStream).nblk = 0 := rfl
@[simp] theorem closeStream_ctrl (s : State) : (s.closeStream).ctrl = s.ctrl := rfl
@[simp] theorem closeStream_status (s : State) : (s.closeStream).status = { s.status with mode := .idle } := rfl
@[simp] theorem closeStream_cmd (s : State) : (s.closeStream).cmd = s.cmd := rfl
@[simp] theorem closeStream_rstN (s : State) : (s.closeStream).rstN = s.rstN := rfl
@[simp] theorem closeStream_agenda (s : State) : (s.closeStream).agenda = s.agenda := rfl
@[simp] theorem closeStream_reads (s : State) : (s.closeStream).reads = s.reads := rfl
@[simp] theorem closeStream_draws (s : State) : (s.closeStream).draws = s.draws := rfl
@[simp] theorem readV_closeStream (s : State) (m : VReg) : (s.closeStream).readV m = s.readV m := rfl
@[simp] theorem readRK_closeStream (s : State) (m : RKReg) : (s.closeStream).readRK m = s.readRK m := rfl

/-! ### withAgenda -/

@[simp] theorem withAgenda_v (s : State) (ts : List Turn) : (s.withAgenda ts).v = s.v := rfl
@[simp] theorem withAgenda_rk (s : State) (ts : List Turn) : (s.withAgenda ts).rk = s.rk := rfl
@[simp] theorem withAgenda_fb (s : State) (ts : List Turn) : (s.withAgenda ts).fb = s.fb := rfl
@[simp] theorem withAgenda_slen (s : State) (ts : List Turn) : (s.withAgenda ts).slen = s.slen := rfl
@[simp] theorem withAgenda_flen (s : State) (ts : List Turn) : (s.withAgenda ts).flen = s.flen := rfl
@[simp] theorem withAgenda_remain (s : State) (ts : List Turn) : (s.withAgenda ts).remain = s.remain := rfl
@[simp] theorem withAgenda_nblk (s : State) (ts : List Turn) : (s.withAgenda ts).nblk = s.nblk := rfl
@[simp] theorem withAgenda_ctrl (s : State) (ts : List Turn) : (s.withAgenda ts).ctrl = s.ctrl := rfl
@[simp] theorem withAgenda_status (s : State) (ts : List Turn) : (s.withAgenda ts).status = s.status := rfl
@[simp] theorem withAgenda_cmd (s : State) (ts : List Turn) : (s.withAgenda ts).cmd = s.cmd := rfl
@[simp] theorem withAgenda_rstN (s : State) (ts : List Turn) : (s.withAgenda ts).rstN = s.rstN := rfl
@[simp] theorem withAgenda_agenda (s : State) (ts : List Turn) : (s.withAgenda ts).agenda = ts := rfl
@[simp] theorem withAgenda_reads (s : State) (ts : List Turn) : (s.withAgenda ts).reads = s.reads := rfl
@[simp] theorem withAgenda_draws (s : State) (ts : List Turn) : (s.withAgenda ts).draws = s.draws := rfl
@[simp] theorem readV_withAgenda (s : State) (ts : List Turn) (m : VReg) : (s.withAgenda ts).readV m = s.readV m := rfl
@[simp] theorem readRK_withAgenda (s : State) (ts : List Turn) (m : RKReg) : (s.withAgenda ts).readRK m = s.readRK m := rfl

/-! ### assertReset -/

@[simp] theorem assertReset_v (s : State) : (s.assertReset).v = s.v := rfl
@[simp] theorem assertReset_rk (s : State) : (s.assertReset).rk = s.rk := rfl
@[simp] theorem assertReset_fb (s : State) : (s.assertReset).fb = s.fb := rfl
@[simp] theorem assertReset_slen (s : State) : (s.assertReset).slen = s.slen := rfl
@[simp] theorem assertReset_flen (s : State) : (s.assertReset).flen = s.flen := rfl
@[simp] theorem assertReset_remain (s : State) : (s.assertReset).remain = s.remain := rfl
@[simp] theorem assertReset_nblk (s : State) : (s.assertReset).nblk = s.nblk := rfl
@[simp] theorem assertReset_ctrl (s : State) : (s.assertReset).ctrl = s.ctrl := rfl
@[simp] theorem assertReset_status (s : State) : (s.assertReset).status = { s.status with busy := false } := rfl
@[simp] theorem assertReset_cmd (s : State) : (s.assertReset).cmd = s.cmd := rfl
@[simp] theorem assertReset_rstN (s : State) : (s.assertReset).rstN = false := rfl
@[simp] theorem assertReset_agenda (s : State) : (s.assertReset).agenda = s.agenda := rfl
@[simp] theorem assertReset_reads (s : State) : (s.assertReset).reads = s.reads := rfl
@[simp] theorem assertReset_draws (s : State) : (s.assertReset).draws = s.draws := rfl
@[simp] theorem readV_assertReset (s : State) (m : VReg) : (s.assertReset).readV m = s.readV m := rfl
@[simp] theorem readRK_assertReset (s : State) (m : RKReg) : (s.assertReset).readRK m = s.readRK m := rfl

/-! ### releaseReset -/

@[simp] theorem releaseReset_slen (s : State) : s.releaseReset.slen = 0 := rfl
@[simp] theorem releaseReset_flen (s : State) : s.releaseReset.flen = 0 := rfl
@[simp] theorem releaseReset_remain (s : State) : s.releaseReset.remain = 0 := rfl
@[simp] theorem releaseReset_nblk (s : State) : s.releaseReset.nblk = 0 := rfl
@[simp] theorem releaseReset_fb (s : State) : s.releaseReset.fb = Config.freeBlock (s.draws + 18) := rfl
@[simp] theorem releaseReset_ctrl (s : State) : s.releaseReset.ctrl = { ie := false } := rfl
@[simp] theorem releaseReset_status (s : State) : s.releaseReset.status = Status.reset := rfl
@[simp] theorem releaseReset_cmd (s : State) : s.releaseReset.cmd = 0 := rfl
@[simp] theorem releaseReset_rstN (s : State) : s.releaseReset.rstN = true := rfl
@[simp] theorem releaseReset_agenda (s : State) : s.releaseReset.agenda = s.agenda := rfl
@[simp] theorem releaseReset_reads (s : State) : s.releaseReset.reads = s.reads := rfl
@[simp] theorem releaseReset_draws (s : State) : s.releaseReset.draws = s.draws + 19 := rfl

/-! ### Register reads after register writes -/

@[simp] theorem readV_writeV_same (s : State) (n : VReg) (b : Block) : (s.writeV n b).readV n = b := by
  simp [State.readV]

theorem readV_writeV_ne (s : State) {n m : VReg} (b : Block) (h : m ≠ n) : (s.writeV n b).readV m = s.readV m := by
  simp only [State.readV, writeV_v]
  exact Vector.getElem_set_ne _ _ (fun e => h (Fin.ext e.symm))

theorem readV_writeV (s : State) (n m : VReg) (b : Block) :
    (s.writeV n b).readV m = if m = n then b else s.readV m := by
  split
  · next h => subst h; simp
  · next h => exact readV_writeV_ne s b h

@[simp] theorem readRK_writeRK_same (s : State) (i : RKReg) (b : Block) : (s.writeRK i b).readRK i = b := by
  simp [State.readRK]

theorem readRK_writeRK_ne (s : State) {i j : RKReg} (b : Block) (h : j ≠ i) :
    (s.writeRK i b).readRK j = s.readRK j := by
  simp only [State.readRK, writeRK_rk]
  exact Vector.getElem_set_ne _ _ (fun e => h (Fin.ext e.symm))

@[simp] theorem readRK_writeSchedule (s : State) (k : Vector Block 10) (i : RKReg) :
    (s.writeSchedule k).readRK i = k[i.val] := rfl

/-- Two states with the same V registers, read one by one, have the same file. -/
theorem v_ext {s t : State} (h : ∀ n, t.readV n = s.readV n) : t.v = s.v := by
  apply Vector.ext
  intro i hi
  exact h ⟨i, hi⟩

/-- Two states with the same RK registers, read one by one, have the same schedule. -/
theorem rk_ext {s t : State} (h : ∀ i, t.readRK i = s.readRK i) : t.rk = s.rk := by
  apply Vector.ext
  intro i hi
  exact h ⟨i, hi⟩

end Sys2Proof.Machine
end

