-- ==== Sys2Proof/Laws/Outcome.lean ====
section
/-! SUPPORT. What the shared checks and completions can answer: one inversion lemma each. -/

namespace Sys2Proof.Machine

@[simp] theorem succeed_eq (s : State) : succeed s = .next (s.complete .ok) := rfl

@[simp] theorem raiseError_eq (c : ErrCode) (s : State) : raiseError c s = .next (s.complete c) := rfl

@[simp] theorem complete_err (s : State) (c : ErrCode) : (s.complete c).status.err = c := rfl
@[simp] theorem complete_done (s : State) (c : ErrCode) : (s.complete c).status.done = true := rfl
@[simp] theorem complete_busy (s : State) (c : ErrCode) : (s.complete c).status.busy = false := rfl
@[simp] theorem complete_mode (s : State) (c : ErrCode) : (s.complete c).status.mode = s.status.mode := rfl
@[simp] theorem complete_valid (s : State) (c : ErrCode) : (s.complete c).status.valid = s.status.valid := rfl
@[simp] theorem complete_wovr (s : State) (c : ErrCode) : (s.complete c).status.wovr = s.status.wovr := rfl

theorem withBlockLen_of_eq {len : Byte} (h : len = 16#8) (s : State) (k : Result) : withBlockLen len s k = k := if_pos h

theorem withBlockLen_of_ne {len : Byte} (h : len ≠ 16#8) (s : State) (k : Result) :
    withBlockLen len s k = .next (s.complete .invalidBlockSize) := if_neg h

/-- The block-length check either lets the command go on or completes with InvalidBlockSize. -/
theorem withBlockLen_cases {len : Byte} {s : State} {k : Result} {t : State} (h : withBlockLen len s k = .next t) :
    (len = 16#8 ∧ k = .next t) ∨ (len ≠ 16#8 ∧ t = s.complete .invalidBlockSize) := by
  by_cases hl : len = 16#8
  · exact .inl ⟨hl, (withBlockLen_of_eq hl s k) ▸ h⟩
  · rw [withBlockLen_of_ne hl] at h
    exact .inr ⟨hl, (Host.Outcome.next.inj h).symm⟩

theorem withKeyLen_of_eq {len : Byte} (h : len = 32#8) (s : State) (k : Result) : withKeyLen len s k = k := if_pos h

theorem withKeyLen_of_ne {len : Byte} (h : len ≠ 32#8) (s : State) (k : Result) :
    withKeyLen len s k = .next (s.complete .invalidKeySize) := if_neg h

/-- The key-length check either lets EXPAND go on or completes with InvalidKeySize. -/
theorem withKeyLen_cases {len : Byte} {s : State} {k : Result} {t : State} (h : withKeyLen len s k = .next t) :
    (len = 32#8 ∧ k = .next t) ∨ (len ≠ 32#8 ∧ t = s.complete .invalidKeySize) := by
  by_cases hl : len = 32#8
  · exact .inl ⟨hl, (withKeyLen_of_eq hl s k) ▸ h⟩
  · rw [withKeyLen_of_ne hl] at h
    exact .inr ⟨hl, (Host.Outcome.next.inj h).symm⟩

theorem withRoundKey_of_lt {imm : Imm} (h : imm.toNat < 10) (s : State) (k : RKReg → Result) :
    withRoundKey imm s k = k ⟨imm.toNat, h⟩ := dif_pos h

theorem withRoundKey_of_ge {imm : Imm} (h : 9 < imm.toNat) (s : State) (k : RKReg → Result) :
    withRoundKey imm s k = .next (s.complete .illegalCommand) := dif_neg (by omega)

/-- The round-key check either lets the command go on or completes with IllegalCommand. -/
theorem withRoundKey_cases {imm : Imm} {s : State} {k : RKReg → Result} {t : State}
    (h : withRoundKey imm s k = .next t) :
    (∃ i : RKReg, i.val = imm.toNat ∧ k i = .next t) ∨ (9 < imm.toNat ∧ t = s.complete .illegalCommand) := by
  by_cases hi : imm.toNat < 10
  · exact .inl ⟨⟨imm.toNat, hi⟩, rfl, (withRoundKey_of_lt hi s k) ▸ h⟩
  · rw [withRoundKey_of_ge (by omega)] at h
    exact .inr ⟨by omega, (Host.Outcome.next.inj h).symm⟩

theorem withMode_of_eq {m : Mode} {s : State} (h : s.status.mode = m) (k : Result) : withMode m s k = k := if_pos h

theorem withMode_of_ne {m : Mode} {s : State} (h : s.status.mode ≠ m) (k : Result) :
    withMode m s k = .next (s.complete .sequenceError) := if_neg h

/-- The sequence check either lets the block command go on or completes with SequenceError. -/
theorem withMode_cases {m : Mode} {s : State} {k : Result} {t : State} (h : withMode m s k = .next t) :
    (s.status.mode = m ∧ k = .next t) ∨ (s.status.mode ≠ m ∧ t = s.complete .sequenceError) := by
  by_cases hm : s.status.mode = m
  · exact .inl ⟨hm, (withMode_of_eq hm k) ▸ h⟩
  · rw [withMode_of_ne hm] at h
    exact .inr ⟨hm, (Host.Outcome.next.inj h).symm⟩

/-- The frame checks let CBCD_START go on, or complete with FrameTooShort, or with TruncatedCiphertext. -/
theorem withFrame_cases {flen : Dword} {s : State} {k : Result} {t : State} (h : withFrame flen s k = .next t) :
    (24 ≤ flen.toNat ∧ (flen.toNat - 24) % 16 = 0 ∧ k = .next t) ∨
      (flen.toNat < 24 ∧ t = s.complete .frameTooShort) ∨
      (24 ≤ flen.toNat ∧ (flen.toNat - 24) % 16 ≠ 0 ∧ t = s.complete .truncatedCiphertext) := by
  unfold withFrame at h
  split at h
  · next h1 => exact .inr (.inl ⟨h1, (Host.Outcome.next.inj h).symm⟩)
  · next h1 =>
    split at h
    · next h2 => exact .inr (.inr ⟨by omega, h2, (Host.Outcome.next.inj h).symm⟩)
    · next h2 => exact .inl ⟨by omega, by omega, h⟩

/-- A completed check never faults or refuses when what it guards does not. -/
theorem withBlockLen_next {len : Byte} {s : State} {k : Result} (h : ∃ t, k = .next t) :
    ∃ t, withBlockLen len s k = .next t := by
  unfold withBlockLen
  split
  · exact h
  · exact ⟨_, rfl⟩

theorem withRoundKey_next {imm : Imm} {s : State} {k : RKReg → Result} (h : ∀ i, ∃ t, k i = .next t) :
    ∃ t, withRoundKey imm s k = .next t := by
  unfold withRoundKey
  split
  · exact h _
  · exact ⟨_, rfl⟩

end Sys2Proof.Machine
end

