-- ==== Sys2Proof/Laws/Exec.lean ====
section
/-! SUPPORT. What a command's completion can do, said once: every invariant of the commands is a case analysis on it. -/

namespace Sys2Proof.Machine

/-- The next state of a command that is no stream command: one write at most, then the completion. -/
inductive NonStreamNext (i : Instr) (s t : State) : Prop where
  | none (h : t = s.complete .ok)
  | block (d : VReg) (b : Block) (h : t = (s.writeV d b).complete .ok)
  | key (hi : i.mnemonic = "RKLD") (k : RKReg) (b : Block) (h : t = (s.writeRK k b).complete .ok)
  | schedule (hi : i.mnemonic = "EXPAND") (k : Vector Block 10) (h : t = (s.writeSchedule k).complete .ok)

/-- Everything a command can do, whatever the ROM contents: fail, or the writes of its kind. -/
theorem execWith_cases {rom : Rom} {i : Instr} {s t : State} (h : execWith rom i s = .next t) :
    (∃ c, c ≠ .ok ∧ c ≠ .invalidInputLength ∧ t = s.complete c) ∨
      (i.opcode.toNat < 0x20 ∧ NonStreamNext i s t) ∨
      (∃ l s1, i = .cbceStart l s1 ∧
        t = (s.openStream .enc (s.readV s1) (blocksOfLength s.slen)).complete .ok) ∨
      (∃ l s1, i = .cbcdStart l s1 ∧ 24 ≤ s.flen.toNat ∧ (s.flen.toNat - 24) % 16 = 0 ∧
        t = (s.openStream .dec (s.readV s1) (blocksOfFrame s.flen)).complete .ok) ∨
      (∃ l d s1 c, i = .cbceBlock l d s1 ∧ s.status.mode = .enc ∧ t = (cbceBlockWrites d c s).complete .ok) ∨
      (∃ l d s1 c p, i = .cbcdBlock l d s1 ∧ s.status.mode = .dec ∧ t = (cbcdBlockWrites d c p s).complete .ok) ∨
      (i = .cbcAbort ∧ t = s.closeStream.complete .ok) := by
  have nx : ∀ {a b : State}, succeed a = .next b → b = a.complete .ok := fun h => (Host.Outcome.next.inj h).symm
  cases i with
  | nop => exact .inr (.inl ⟨by decide, .none (nx h)⟩)
  | rcon d m => exact .inr (.inl ⟨by simp [Instr.opcode], .block _ _ (nx h)⟩)
  | cbcAbort => exact .inr (.inr (.inr (.inr (.inr (.inr ⟨rfl, nx h⟩)))))
  | rkst d m =>
    unfold execWith execRkst at h
    rcases withRoundKey_cases h with ⟨i, -, h⟩ | ⟨-, h⟩
    · exact .inr (.inl ⟨by simp [Instr.opcode], .block _ _ (nx h)⟩)
    · exact .inl ⟨_, by decide, by decide, h⟩
  | round l d s1 m =>
    unfold execWith execRoundWith at h
    rcases withRoundKey_cases h with ⟨i, -, h⟩ | ⟨-, h⟩
    · rcases withBlockLen_cases h with ⟨-, h⟩ | ⟨-, h⟩
      · exact .inr (.inl ⟨by simp [Instr.opcode], .block _ _ (nx h)⟩)
      · exact .inl ⟨_, by decide, by decide, h⟩
    · exact .inl ⟨_, by decide, by decide, h⟩
  | iround l d s1 m =>
    unfold execWith execIroundWith at h
    rcases withRoundKey_cases h with ⟨i, -, h⟩ | ⟨-, h⟩
    · rcases withBlockLen_cases h with ⟨-, h⟩ | ⟨-, h⟩
      · exact .inr (.inl ⟨by simp [Instr.opcode], .block _ _ (nx h)⟩)
      · exact .inl ⟨_, by decide, by decide, h⟩
    · exact .inl ⟨_, by decide, by decide, h⟩
  | rkld l s1 m =>
    unfold execWith execRkld at h
    rcases withRoundKey_cases h with ⟨i, -, h⟩ | ⟨-, h⟩
    · rcases withBlockLen_cases h with ⟨-, h⟩ | ⟨-, h⟩
      · exact .inr (.inl ⟨by simp [Instr.opcode], .key rfl _ _ (nx h)⟩)
      · exact .inl ⟨_, by decide, by decide, h⟩
    · exact .inl ⟨_, by decide, by decide, h⟩
  | expand l s1 s2 =>
    rcases withKeyLen_cases h with ⟨-, h⟩ | ⟨-, h⟩
    · exact .inr (.inl ⟨by simp [Instr.opcode], .schedule rfl _ (nx h)⟩)
    · exact .inl ⟨_, by decide, by decide, h⟩
  | cbceStart l s1 =>
    rcases withBlockLen_cases h with ⟨-, h⟩ | ⟨-, h⟩
    · exact .inr (.inr (.inl ⟨_, _, rfl, nx h⟩))
    · exact .inl ⟨_, by decide, by decide, h⟩
  | cbcdStart l s1 =>
    rcases withBlockLen_cases h with ⟨-, h⟩ | ⟨-, h⟩
    · rcases withFrame_cases h with ⟨h1, h2, h⟩ | ⟨-, h⟩ | ⟨-, -, h⟩
      · exact .inr (.inr (.inr (.inl ⟨_, _, rfl, h1, h2, nx h⟩)))
      · exact .inl ⟨_, by decide, by decide, h⟩
      · exact .inl ⟨_, by decide, by decide, h⟩
    · exact .inl ⟨_, by decide, by decide, h⟩
  | cbceBlock l d s1 =>
    rcases withBlockLen_cases h with ⟨-, h⟩ | ⟨-, h⟩
    · rcases withMode_cases h with ⟨h1, h⟩ | ⟨-, h⟩
      · exact .inr (.inr (.inr (.inr (.inl ⟨_, _, _, _, rfl, h1, nx h⟩))))
      · exact .inl ⟨_, by decide, by decide, h⟩
    · exact .inl ⟨_, by decide, by decide, h⟩
  | cbcdBlock l d s1 =>
    rcases withBlockLen_cases h with ⟨-, h⟩ | ⟨-, h⟩
    · rcases withMode_cases h with ⟨h1, h⟩ | ⟨-, h⟩
      · exact .inr (.inr (.inr (.inr (.inr (.inl ⟨_, _, _, _, _, rfl, h1, nx h⟩)))))
      · exact .inl ⟨_, by decide, by decide, h⟩
    · exact .inl ⟨_, by decide, by decide, h⟩
  | _ =>
    rcases withBlockLen_cases h with ⟨-, h⟩ | ⟨-, h⟩
    · exact .inr (.inl ⟨by simp [Instr.opcode], .block _ _ (nx h)⟩)
    · exact .inl ⟨_, by decide, by decide, h⟩

/-- `exec` is the default ROM contents' case. -/
theorem exec_eq_execWith (i : Instr) (s : State) : exec i s = execWith Config.rom i s := by cases i <;> rfl

/-- The same of `exec`. -/
theorem exec_cases {i : Instr} {s t : State} (h : exec i s = .next t) :
    (∃ c, c ≠ .ok ∧ c ≠ .invalidInputLength ∧ t = s.complete c) ∨
      (i.opcode.toNat < 0x20 ∧ NonStreamNext i s t) ∨
      (∃ l s1, i = .cbceStart l s1 ∧
        t = (s.openStream .enc (s.readV s1) (blocksOfLength s.slen)).complete .ok) ∨
      (∃ l s1, i = .cbcdStart l s1 ∧ 24 ≤ s.flen.toNat ∧ (s.flen.toNat - 24) % 16 = 0 ∧
        t = (s.openStream .dec (s.readV s1) (blocksOfFrame s.flen)).complete .ok) ∨
      (∃ l d s1 c, i = .cbceBlock l d s1 ∧ s.status.mode = .enc ∧ t = (cbceBlockWrites d c s).complete .ok) ∨
      (∃ l d s1 c p, i = .cbcdBlock l d s1 ∧ s.status.mode = .dec ∧ t = (cbcdBlockWrites d c p s).complete .ok) ∨
      (i = .cbcAbort ∧ t = s.closeStream.complete .ok) :=
  execWith_cases (exec_eq_execWith i s ▸ h)

end Sys2Proof.Machine
end

