-- ==== Sys2Proof/Laws/Field.lean ====
section
/-! SUPPORT. The GF(256) multiplier: its loop is additive in each variable. -/

namespace Sys2Proof.Machine

/-- The multiplier's shift is additive: it is multiplication by x (40 R151). -/
theorem gfShift_xor (a b : Byte) : gfShift (a ^^^ b) = gfShift a ^^^ gfShift b := by
  unfold gfShift
  rw [BitVec.getLsbD_xor]
  cases ha : a.getLsbD 7 <;> cases hb : b.getLsbD 7 <;>
    simp only [Bool.xor_false, Bool.xor_true, Bool.not_false, Bool.not_true, if_true, if_false, Bool.false_eq_true,
      BitVec.shiftLeft_xor_distrib] <;>
    (apply BitVec.eq_of_getLsbD_eq
     intro i hi
     simp only [BitVec.getLsbD_xor]
     cases (a <<< 1).getLsbD i <;> cases (b <<< 1).getLsbD i <;> cases (0xC3#8).getLsbD i <;> rfl)

@[simp] theorem gfShift_zero : gfShift 0 = 0 := by decide

/-- The accumulator comes out XORed to the product. -/
theorem gfmulLoop_acc (n : Nat) (a b r : Byte) : gfmulLoop n a b r = r ^^^ gfmulLoop n a b 0 := by
  induction n generalizing a b r with
  | zero => simp [gfmulLoop]
  | succ n ih =>
    simp only [gfmulLoop]
    rw [ih (r := if b.getLsbD 0 then r ^^^ a else r), ih (r := if b.getLsbD 0 then 0 ^^^ a else 0)]
    split <;> simp [BitVec.xor_assoc]

/-- One iteration from r = 0: a's term if b's low bit is set, then the product of the shifted factors. -/
theorem gfmulLoop_succ (n : Nat) (a b : Byte) :
    gfmulLoop (n + 1) a b 0 = (if b.getLsbD 0 then a else 0) ^^^ gfmulLoop n (gfShift a) (b >>> 1) 0 := by
  simp only [gfmulLoop]
  rw [gfmulLoop_acc]
  split <;> simp

/-- The loop is additive in its first factor. -/
theorem gfmulLoop_xor_left (n : Nat) (a a' b : Byte) :
    gfmulLoop n (a ^^^ a') b 0 = gfmulLoop n a b 0 ^^^ gfmulLoop n a' b 0 := by
  induction n generalizing a a' b with
  | zero => simp [gfmulLoop]
  | succ n ih =>
    rw [gfmulLoop_succ, gfmulLoop_succ, gfmulLoop_succ, gfShift_xor, ih]
    split
    · ac_rfl
    · simp

/-- The loop is additive in its second factor. -/
theorem gfmulLoop_xor_right (n : Nat) (a b b' : Byte) :
    gfmulLoop n a (b ^^^ b') 0 = gfmulLoop n a b 0 ^^^ gfmulLoop n a b' 0 := by
  induction n generalizing a b b' with
  | zero => simp [gfmulLoop]
  | succ n ih =>
    rw [gfmulLoop_succ, gfmulLoop_succ, gfmulLoop_succ, BitVec.ushiftRight_xor_distrib, BitVec.getLsbD_xor, ih]
    generalize gfmulLoop n (gfShift a) (b >>> 1) 0 = x
    generalize gfmulLoop n (gfShift a) (b' >>> 1) 0 = y
    have cancel : a ^^^ x ^^^ (a ^^^ y) = x ^^^ y := by
      rw [BitVec.xor_comm a x, BitVec.xor_assoc, ← BitVec.xor_assoc a a y, BitVec.xor_self, BitVec.zero_xor]
    cases b.getLsbD 0 <;> cases b'.getLsbD 0 <;> simp [cancel]
    · ac_rfl
    · ac_rfl

end Sys2Proof.Machine
end

