-- ==== Sys2Proof/Laws/PerInstr.lean ====
section
/-! SUPPORT. Family AssembledFields: the word `encode` makes of an instruction holds the instruction's opcode, and no
reserved bit. -/

namespace Sys2Proof.Laws.AssembledFields

/-- The assembled word's OP is the instruction's opcode (30_encoding R114, R124), and bits 19 and 23 are 0 (R113). -/
def Statement (i : Instr) : Prop := fieldOp (encode i) = i.opcode ∧ reservedBitSet (encode i) = false

theorem nop : Statement .nop := ⟨by simp [encode], by simp [encode]⟩
theorem gfmul (len : Byte) (d s1 s2 : VReg) : Statement (.gfmul len d s1 s2) := ⟨by simp [encode], by simp [encode]⟩
theorem sub (len : Byte) (d s1 : VReg) : Statement (.sub len d s1) := ⟨by simp [encode], by simp [encode]⟩
theorem isub (len : Byte) (d s1 : VReg) : Statement (.isub len d s1) := ⟨by simp [encode], by simp [encode]⟩
theorem rstep (len : Byte) (d s1 : VReg) : Statement (.rstep len d s1) := ⟨by simp [encode], by simp [encode]⟩
theorem irstep (len : Byte) (d s1 : VReg) : Statement (.irstep len d s1) := ⟨by simp [encode], by simp [encode]⟩
theorem lin (len : Byte) (d s1 : VReg) : Statement (.lin len d s1) := ⟨by simp [encode], by simp [encode]⟩
theorem ilin (len : Byte) (d s1 : VReg) : Statement (.ilin len d s1) := ⟨by simp [encode], by simp [encode]⟩
theorem xor (len : Byte) (d s1 s2 : VReg) : Statement (.xor len d s1 s2) := ⟨by simp [encode], by simp [encode]⟩
theorem round (len : Byte) (d s1 : VReg) (imm : Imm) : Statement (.round len d s1 imm) := ⟨by simp [encode], by simp [encode]⟩
theorem iround (len : Byte) (d s1 : VReg) (imm : Imm) : Statement (.iround len d s1 imm) := ⟨by simp [encode], by simp [encode]⟩
theorem enc (len : Byte) (d s1 : VReg) : Statement (.enc len d s1) := ⟨by simp [encode], by simp [encode]⟩
theorem dec (len : Byte) (d s1 : VReg) : Statement (.dec len d s1) := ⟨by simp [encode], by simp [encode]⟩
theorem rkld (len : Byte) (s1 : VReg) (imm : Imm) : Statement (.rkld len s1 imm) := ⟨by simp [encode], by simp [encode]⟩
theorem rkst (d : VReg) (imm : Imm) : Statement (.rkst d imm) := ⟨by simp [encode], by simp [encode]⟩
theorem rcon (d : VReg) (imm : Imm) : Statement (.rcon d imm) := ⟨by simp [encode], by simp [encode]⟩
theorem feistel (len : Byte) (d s1 s2 : VReg) (imm : Imm) : Statement (.feistel len d s1 s2 imm) := ⟨by simp [encode], by simp [encode]⟩
theorem expand (len : Byte) (s1 s2 : VReg) : Statement (.expand len s1 s2) := ⟨by simp [encode], by simp [encode]⟩
theorem cbceStart (len : Byte) (s1 : VReg) : Statement (.cbceStart len s1) := ⟨by simp [encode], by simp [encode]⟩
theorem cbceBlock (len : Byte) (d s1 : VReg) : Statement (.cbceBlock len d s1) := ⟨by simp [encode], by simp [encode]⟩
theorem cbcdStart (len : Byte) (s1 : VReg) : Statement (.cbcdStart len s1) := ⟨by simp [encode], by simp [encode]⟩
theorem cbcdBlock (len : Byte) (d s1 : VReg) : Statement (.cbcdBlock len d s1) := ⟨by simp [encode], by simp [encode]⟩
theorem cbcAbort : Statement .cbcAbort := ⟨by simp [encode], by simp [encode]⟩

end Sys2Proof.Laws.AssembledFields
end

