-- ==== Sys2Proof/Laws/Stream.lean ====
section
/-! SUPPORT. The stream counts as natural numbers, and the mode. -/

namespace Sys2Proof.Machine

@[simp] theorem modeWithBlocks_zero (m : Mode) : modeWithBlocks m 0 = .idle := rfl

theorem modeWithBlocks_of_ne (m : Mode) {n : Dword} (h : n ≠ 0) : modeWithBlocks m n = m := if_neg h

theorem blocks_ne_zero_of_mode {m : Mode} {n : Dword} (h : modeWithBlocks m n ≠ .idle) : n ≠ 0 := fun hn => h (if_pos hn)

theorem toNat_blocksOfLength (slen : Dword) : (blocksOfLength slen).toNat = (slen.toNat + 15) / 16 := by
  have h := slen.isLt
  have hx : (slen.extractLsb' 0 4).toNat = slen.toNat % 16 := by simp
  have hs : (slen >>> 4).toNat = slen.toNat / 16 := by simp [BitVec.toNat_ushiftRight, Nat.shiftRight_eq_div_pow]
  unfold blocksOfLength
  split
  · next h0 => rw [h0] at hx; simp at hx; simp [hs]; omega
  · next h0 =>
    have : slen.toNat % 16 ≠ 0 := fun hh => h0 (BitVec.eq_of_toNat_eq (by rw [hx, hh]; rfl))
    rw [BitVec.toNat_add, hs]; simp; omega

theorem toNat_blocksOfFrame (flen : Dword) (h : 24 ≤ flen.toNat) : (blocksOfFrame flen).toNat = (flen.toNat - 24) / 16 := by
  have := flen.isLt
  unfold blocksOfFrame
  rw [BitVec.toNat_ushiftRight, Nat.shiftRight_eq_div_pow, BitVec.toNat_sub]; simp; omega

theorem toNat_validCount (remain : Dword) : (validCount remain).toNat = min 16 remain.toNat := by
  unfold validCount; split <;> simp <;> omega

theorem toNat_sub_validCount (remain : Dword) :
    (remain - (validCount remain).setWidth 64).toNat = remain.toNat - min 16 remain.toNat := by
  have h := remain.isLt
  have h2 : ((validCount remain).setWidth 64).toNat = min 16 remain.toNat := by
    rw [BitVec.toNat_setWidth, toNat_validCount]; omega
  rw [BitVec.toNat_sub, h2]; omega

end Sys2Proof.Machine
end

