-- ==== Sys2Proof/Laws/Transforms.lean ====
section
/-! SUPPORT. The bytes of each block transform, and the default ROM contents. -/

namespace Sys2Proof.Machine

theorem xorBelow_congr {f g : Nat → Byte} {n : Nat} (h : ∀ i < n, f i = g i) : xorBelow f n = xorBelow g n := by
  induction n with
  | zero => rfl
  | succ n ih => simp only [xorBelow, ih fun i hi => h i (by omega), h n (by omega)]

theorem xorBelow_xor (f g : Nat → Byte) (n : Nat) :
    xorBelow (fun i => f i ^^^ g i) n = xorBelow f n ^^^ xorBelow g n := by
  induction n with
  | zero => simp [xorBelow]
  | succ n ih =>
    simp only [xorBelow, ih]
    ac_rfl

theorem blockByte_gfmulLanes (a b : Block) {j : Nat} (hj : j < 16) :
    blockByte (gfmulLanes a b) j = gfmul (blockByte a j) (blockByte b j) := blockByte_blockOfBytes _ hj

theorem blockByte_substitute (rom : Rom) (b : Block) {j : Nat} (hj : j < 16) :
    blockByte (substitute rom b) j = rom.pi (blockByte b j) := blockByte_blockOfBytes _ hj

theorem blockByte_inverseSubstitute (rom : Rom) (b : Block) {j : Nat} (hj : j < 16) :
    blockByte (inverseSubstitute rom b) j = piInv rom (blockByte b j) := blockByte_blockOfBytes _ hj

theorem blockByte_diffuseStep_zero (rom : Rom) (b : Block) :
    blockByte (diffuseStep rom b) 0 = xorBelow (fun i => gfmul (blockByte b i) (rom.lcoef i)) 16 :=
  blockByte_blockOfBytes _ (by omega)

theorem blockByte_diffuseStep_succ (rom : Rom) (b : Block) {i : Nat} (hi : i < 15) :
    blockByte (diffuseStep rom b) (i + 1) = blockByte b i := by
  rw [diffuseStep, blockByte_blockOfBytes _ (by omega), if_neg (by omega), Nat.add_sub_cancel]

theorem blockByte_inverseDiffuseStep (rom : Rom) (b : Block) {i : Nat} (hi : i < 15) :
    blockByte (inverseDiffuseStep rom b) i = blockByte b (i + 1) := by
  rw [inverseDiffuseStep, blockByte_blockOfBytes _ (by omega), if_neg (by omega)]

theorem blockByte_inverseDiffuseStep_last (rom : Rom) (b : Block) :
    blockByte (inverseDiffuseStep rom b) 15 =
      blockByte b 0 ^^^ xorBelow (fun i => gfmul (blockByte b (i + 1)) (rom.lcoef i)) 15 := by
  rw [inverseDiffuseStep, blockByte_blockOfBytes _ (by omega), if_pos rfl]

theorem blockByte_roundConstant (i : Nat) {j : Nat} (hj : j < 16) :
    blockByte (roundConstant i) j = if j = 0 then BitVec.ofNat 8 (i + 1) else 0 := blockByte_blockOfBytes _ hj

theorem repeatBlock_eq_iterate (f : Block → Block) (n : Nat) (b : Block) : repeatBlock f n b = f^[n] b := by
  induction n with
  | zero => rfl
  | succ n ih => rw [repeatBlock, ih, Function.iterate_succ_apply']

/-- What the search for a preimage finds is one, if there is one below n. -/
theorem preimageBelow_spec (f : Byte → Byte) (x : Byte) (n : Nat) (h : ∃ m < n, f (BitVec.ofNat 8 m) = x) :
    f (preimageBelow f x n) = x := by
  induction n with
  | zero => obtain ⟨m, hm, -⟩ := h; omega
  | succ n ih =>
    rw [preimageBelow]
    split
    · assumption
    · next hn =>
      obtain ⟨m, hm, hx⟩ := h
      refine ih ⟨m, ?_, hx⟩
      rcases Nat.lt_succ_iff_lt_or_eq.mp hm with h' | rfl
      · exact h'
      · exact absurd hx hn

/-- A candidate inverse of PI, byte by byte, read off 41 R162's table. -/
theorem piTable_injective : Function.Injective Config.rom.pi := by
  have hcard : ∀ x : Fin 256, ∃ y : Fin 256, Config.piTable (BitVec.ofFin y) = BitVec.ofFin x := by decide +kernel
  have hsurj : Function.Surjective Config.rom.pi := fun x => by
    obtain ⟨y, hy⟩ := hcard x.toFin
    exact ⟨BitVec.ofFin y, hy⟩
  have : Finite Byte := Finite.of_injective BitVec.toFin (fun a b h => BitVec.eq_of_toFin_eq h)
  exact Finite.injective_iff_surjective.mpr hsurj

/-- The default ROM contents are well formed (00_scope R13; 41 R161, R164). -/
theorem rom_wellFormed : Config.rom.WellFormed := ⟨piTable_injective, rfl⟩

end Sys2Proof.Machine
end

