-- ==== Sys2Proof/Laws/Turns.lean ====
section
/-! SUPPORT. What each turn answers, what a host keeps of what it reads, and the instances of a system. -/

namespace Sys2Proof.Machine

@[simp] theorem takeTurnBy_sequencer (ex : Meaning) (s : State) : takeTurnBy ex .sequencer s = sequencerTurnBy ex s := rfl
@[simp] theorem takeTurnBy_host (ex : Meaning) (a : Access) (s : State) :
    takeTurnBy ex (.host a) s = .next (hostTurn a s) := rfl
@[simp] theorem takeTurnBy_assertReset (ex : Meaning) (s : State) : takeTurnBy ex .assertReset s = .next s.assertReset := rfl
@[simp] theorem takeTurnBy_releaseReset (ex : Meaning) (s : State) :
    takeTurnBy ex .releaseReset s = .next (releaseTurn s) := rfl

theorem sequencerTurnBy_of_busy (ex : Meaning) {s : State} (hr : s.rstN = true) (hb : s.status.busy = true) :
    sequencerTurnBy ex s = runCommandBy ex s := by simp [sequencerTurnBy, hr, hb]

theorem sequencerTurnBy_of_idle (ex : Meaning) {s : State} (hb : s.status.busy = false) :
    sequencerTurnBy ex s = .next s := by simp [sequencerTurnBy, hb]

theorem sequencerTurnBy_of_reset (ex : Meaning) {s : State} (hr : s.rstN = false) : sequencerTurnBy ex s = .next s := by
  simp [sequencerTurnBy, hr]

theorem hostTurn_of_rstN (a : Access) {s : State} (hr : s.rstN = true) : hostTurn a s = s.portAccess a := if_pos hr

theorem runCommandBy_of_ok (ex : Meaning) {s : State} {i : Instr} (h : decode s.cmd = .ok i) : runCommandBy ex s = ex i s := by
  simp [runCommandBy, State.fetch, h]

theorem runCommandBy_of_error (ex : Meaning) {s : State} {e : DecodeError} (h : decode s.cmd = .error e) :
    runCommandBy ex s = .next (s.complete .illegalCommand) := by simp [runCommandBy, State.fetch, h, raiseError]

/-! ## What a host keeps -/

@[simp] theorem keptBytes_nil : keptBytes [] = [] := rfl
@[simp] theorem keptBytes_block (st w0 w1 w2 w3 : Word) (rest : List Word) :
    keptBytes (st :: w0 :: w1 :: w2 :: w3 :: rest) =
      ([w0, w1, w2, w3].flatMap wordBytes).take (statusValid st) ++ keptBytes rest := rfl

@[simp] theorem length_wordBytes (w : Word) : (wordBytes w).length = 4 := rfl
@[simp] theorem length_wordsOfBlock (b : Block) : (wordsOfBlock b).length = 4 := rfl
@[simp] theorem length_blockBytes (b : Block) : (blockBytes b).length = 16 := by simp [blockBytes]
@[simp] theorem length_lengthBytes (slen : Dword) : (lengthBytes slen).length = 8 := by simp [lengthBytes]

/-! ## Instances -/

@[simp] theorem cores_setCore (sys : System) (k : Nat) (s : State) : (sys.setCore k s).cores = sys.cores.set k s := by
  cases k <;> simp [System.setCore, System.cores]

end Sys2Proof.Machine
end

