-- ==== Sys2Proof/Tests/Slice0.lean ====
section
/-! SUPPORT. Tests, their expected values from the spec (95_test_vectors unless another file is named), and a witness for
every statement that has hypotheses. -/

namespace Sys2Proof.Tests

open Sys2Proof.Machine

set_option Elab.async false

/-! ## Small states -/

/-- An idle core with every block register zero. -/
def idle : State := { State.reset with v := Vector.replicate 8 0, rk := Vector.replicate 10 0, fb := 0 }

/-- The same core executing the word w. -/
def running (w : Word) : State := idle.issue w

/-- The schedule of the zero master key (95 section 1 item 7). -/
def goldenKeys : Vector Block 10 :=
  #v[0x00000000000000000000000000000000#128, 0x00000000000000000000000000000000#128,
     0xd9a795f0870b99523e8770fbf5af9fef#128, 0x5d3ccb0b30c05e48c88e4be0fcab6236#128,
     0x5dedd76f433cf7e511c36009b199d4e3#128, 0xf5e8a30fc3ef829189b864edf15abb25#128,
     0x30b29f0bcc88b745aefd6fb2b468c45d#128, 0x09f152a9396373c0f6f05dfa469e860d#128,
     0xdded5bec473ee00eafa702973827cf96#128, 0x8d50763906ca78df2cd5b6f16bbee0c4#128]

def golden : State := { idle with rk := goldenKeys }

def iv : Block := 0x00112233445566778899aabbccddeeff#128

/-- A core in mode m with n blocks and `remain` bytes left, its feedback the IV. -/
def streaming (m : Mode) (n remain : Dword) : State :=
  { golden with fb := iv, nblk := n, remain := remain, status := { golden.status with mode := m } }

def withLengths (slen flen : Dword) : State := { idle with slen := slen, flen := flen }

/-- What a test looks at: a function of the next state, none where there is none. -/
def after {α : Type} (r : Result) (f : State → α) : Option α :=
  match r with
  | .next t => some (f t)
  | .fault _ => none
  | .refused _ => none

/-! ## WellFormed: one ill-formed term a check (30 R117) -/

theorem test_illformed_round : (Instr.round 16 1 0 10).wellFormed = false := by decide
theorem test_illformed_iround : (Instr.iround 16 1 0 10).wellFormed = false := by decide
theorem test_illformed_rkld : (Instr.rkld 16 0 10).wellFormed = false := by decide
theorem test_illformed_rkst : (Instr.rkst 4 31).wellFormed = false := by decide
theorem test_wellformed_bounds :
    (Instr.round 16 1 0 9).wellFormed ∧ (Instr.rkst 4 9).wellFormed ∧ (Instr.rcon 5 31).wellFormed ∧
      (Instr.feistel 16 2 0 1 31).wellFormed := by decide

/-! ## Decoding: the words of section 3.9 -/

/-- The legal words of 3.9, with the instructions their assembly stands for. -/
def specWords : List (Word × Instr) :=
  [(0x00000000#32, .nop), (0x01021001#32, .gfmul 16 2 0 1), (0x00011002#32, .sub 16 1 0), (0x00011003#32, .isub 16 1 0),
   (0x00011004#32, .rstep 16 1 0), (0x00011005#32, .irstep 16 1 0), (0x00011006#32, .lin 16 1 0),
   (0x00011007#32, .ilin 16 1 0), (0x01021008#32, .xor 16 2 0 1), (0x18011010#32, .round 16 1 0 3),
   (0x18011011#32, .iround 16 1 0 3), (0x00121012#32, .enc 16 2 1)] ++
  [(0x00231013#32, .dec 16 3 2), (0x48001014#32, .rkld 16 0 9), (0x10040015#32, .rkst 4 2), (0xF8050018#32, .rcon 5 31),
   (0x01021019#32, .feistel 16 2 0 1 0), (0x0100201A#32, .expand 32 0 1), (0x00701020#32, .cbceStart 16 7),
   (0x00011021#32, .cbceBlock 16 1 0), (0x00701022#32, .cbcdStart 16 7), (0x00011023#32, .cbcdBlock 16 1 0),
   (0x00000024#32, .cbcAbort), (0x00120F12#32, .enc 15 2 1), (0x0100101A#32, .expand 16 0 1)]

theorem test_decode_spec_words : ∀ p ∈ specWords, decode p.1 = .ok p.2 := by decide +kernel
theorem test_encode_spec_words : ∀ p ∈ specWords, encode p.2 = p.1 := by decide +kernel
theorem test_decode_ignores_unused_fields :
    decode 0x0007FF00#32 = .ok .nop ∧ decode 0x10040715#32 = .ok (.rkst 4 2) ∧ decode 0x50000018#32 = .ok (.rcon 0 10) := by
  decide +kernel
theorem test_decode_rejects :
    decode 0x00000009#32 = .error .reservedOpcode ∧ decode 0x000000FF#32 = .error .reservedOpcode ∧
      decode 0x50011010#32 = .error .roundKeyIndex ∧ decode 0x010A1008#32 = .error .reservedBit ∧
      decode 0x00800000#32 = .error .reservedBit ∧ decode 0x00880F09#32 = .error .reservedBit := by decide +kernel
/-- The 23 rows of spec/opcode_table.json, in its order: the table's pattern decodes to the row's command. -/
theorem test_opcode_rows :
    opcodeRows.length = 23 ∧ ∀ r ∈ opcodeRows, (decodeTableWord 32 r.pattern.toNat).map Instr.mnemonic = some r.mnemonic := by
  decide +kernel
/-- The pattern of every row runs as the first command after reset, and completes. -/
theorem test_rows_run_after_reset :
    ∀ r ∈ opcodeRows, after (step (State.reset.withFetchWord 32 r.pattern.toNat)) (fun t => t.status.done) = some true := by
  decide +kernel

/-! ## GFMUL (3.1) -/

theorem test_gfmul_table :
    gfmul 0x00 0x57 = 0x00#8 ∧ gfmul 0x03 0x07 = 0x09#8 ∧ gfmul 0x80 0x02 = 0xc3#8 ∧ gfmul 0xc3 0x02 = 0x45#8 ∧
      gfmul 0xff 0xff = 0x06#8 ∧ gfmul 0x85 0xfb = 0x4f#8 ∧ gfmul 0x57 0x83 = 0xf2#8 ∧ gfmul 0x53 0xca = 0x12#8 := by
  decide +kernel
theorem test_gfmul :
    after (exec (.gfmul 16 2 0 1) ((idle.writeV 0 0x80800000000000000000000000000001#128).writeV 1
      0x02800000000000000000000000000094#128)) (·.readV 2) = some 0xc3770000000000000000000000000094#128 := by decide +kernel

/-! ## Substitution and diffusion (sections 2, 3.2 to 3.5) -/

/-- 41 R162: rows 0x, 7x, 8x and Fx of the table PI_INV, at columns 0 and F. -/
theorem test_piInv_corners :
    [0x00#8, 0x0F#8, 0x70#8, 0x7F#8, 0x80#8, 0x8F#8, 0xF0#8, 0xFF#8].map (piInv Config.rom) =
      [0xA5#8, 0x91#8, 0x51#8, 0x3C#8, 0x7B#8, 0x36#8, 0x12#8, 0x74#8] := by decide +kernel
theorem test_sub : after (exec (.sub 16 1 0) (idle.writeV 0 0xffeeddccbbaa99881122334455667700#128)) (·.readV 1) =
    some 0xb66cd8887d38e8d77765aeea0c9a7efc#128 := by decide +kernel
theorem test_isub : after (exec (.isub 16 1 0) (idle.writeV 0 0x000102030405060708090a0b0c0d0e0f#128)) (·.readV 1) =
    some 0xa52d328f0e3038c054e69e39557e5291#128 := by decide +kernel
theorem test_rstep : after (exec (.rstep 16 1 0) (idle.writeV 0 0x000102030405060708090a0b0c0d0e0f#128)) (·.readV 1) =
    some 0xd7000102030405060708090a0b0c0d0e#128 := by decide +kernel
theorem test_irstep : after (exec (.irstep 16 1 0) (idle.writeV 0 0x000102030405060708090a0b0c0d0e0f#128)) (·.readV 1) =
    some 0x0102030405060708090a0b0c0d0e0fa8#128 := by decide +kernel
theorem test_lin : after (exec (.lin 16 1 0) (idle.writeV 0 0x64a59400000000000000000000000000#128)) (·.readV 1) =
    some 0xd456584dd0e3e84cc3166e4b7fa2890d#128 := by decide +kernel
theorem test_ilin : after (exec (.ilin 16 1 0) (idle.writeV 0 0x00112233445566778899aabbccddeeff#128)) (·.readV 1) =
    some 0xbad72a1338b6efaf69415b91f11a31ad#128 := by decide +kernel
theorem test_xor : after (exec (.xor 16 2 0 1) ((idle.writeV 0 0x8899aabbccddeeff0011223344556677#128).writeV 1
    0x1122334455667700ffeeddccbbaa9988#128)) (·.readV 2) = some 0x99bb99ff99bb99ffffffffffffffffff#128 := by decide +kernel
theorem test_xor_same_register : after (exec (.xor 16 3 3 3) (idle.writeV 3 iv)) (·.readV 3) = some 0 := by decide +kernel

/-! ## Cipher core (3.6) -/

theorem test_round : after (exec (.round 16 1 0 0) ((idle.writeRK 0 0x8899aabbccddeeff0011223344556677#128).writeV 0
    0x1122334455667700ffeeddccbbaa9988#128)) (·.readV 1) = some 0xe297b686e355b0a1cf4a2f9249140830#128 := by decide +kernel
theorem test_iround : after (exec (.iround 16 1 0 9) (golden.writeV 0 0x1b5fe9c76846437c7afb9d1ceac5a712#128)) (·.readV 1) =
    some 0xa944759571abb53970616ccb706be36d#128 := by decide +kernel
theorem test_enc : after (exec (.enc 16 2 0) golden) (·.readV 2) = some 0x1b5fe9c76846437c7afb9d1ceac5a712#128 := by
  decide +kernel
theorem test_dec : after (exec (.dec 16 4 0) golden) (·.readV 4) = some 0x93fdfa10c50a8a3a68d4f7e60e61e665#128 := by
  decide +kernel
theorem test_rkld : after (exec (.rkld 16 0 9) (golden.writeV 0 0x72e9dd7416bcf45b755dbaa88e4a4043#128))
    (fun t => (t.readRK 9, t.readRK 8)) =
      some (0x72e9dd7416bcf45b755dbaa88e4a4043#128, 0xdded5bec473ee00eafa702973827cf96#128) := by decide +kernel
theorem test_rkst : after (exec (.rkst 4 2) golden) (·.readV 4) = some 0xd9a795f0870b99523e8770fbf5af9fef#128 := by
  decide +kernel

/-! ## Key schedule (3.7, section 1 item 7) -/

theorem test_rcon : after (exec (.rcon 0 7) idle) (·.readV 0) = some 0x08000000000000000000000000000000#128 ∧
    after (exec (.rcon 5 31) idle) (·.readV 5) = some 0x20000000000000000000000000000000#128 := by decide +kernel
theorem test_feistel : after (exec (.feistel 16 2 0 1 0) idle) (·.readV 2) = some 0xa0b5383348e6755d23f2d0e84208e0f1#128 := by
  decide +kernel
/-- The first and the last outer iteration of EXPAND on the zero key: keys 2, 3 and, from keys 6, 7, keys 8, 9. -/
theorem test_expand_first : feistelSteps Config.rom 0 8 (0, 0) =
    (0xd9a795f0870b99523e8770fbf5af9fef#128, 0x5d3ccb0b30c05e48c88e4be0fcab6236#128) := by decide +kernel
theorem test_expand_last :
    feistelSteps Config.rom 24 8 (0x30b29f0bcc88b745aefd6fb2b468c45d#128, 0x09f152a9396373c0f6f05dfa469e860d#128) =
      (0xdded5bec473ee00eafa702973827cf96#128, 0x8d50763906ca78df2cd5b6f16bbee0c4#128) := by decide +kernel

/-! ## CBC streams (3.8) -/

theorem test_block_counts :
    [0, 1, 15, 16, 17, 32, 2 ^ 64 - 1].map (fun n : Nat => (blocksOfLength (BitVec.ofNat 64 n)).toNat) =
      [0, 1, 1, 1, 2, 2, 2 ^ 60] := by decide +kernel
theorem test_cbceStart : after (exec (.cbceStart 16 7) ((withLengths 16 0).writeV 7 iv))
    (fun t => (t.fb, t.remain, t.nblk, t.status.mode)) = some (iv, 16, 1, .enc) := by decide +kernel
theorem test_cbceBlock : after (exec (.cbceBlock 16 1 0) ((streaming .enc 1 16).writeV 0 0x41414141414141414141414141414141#128))
    (fun t => (t.readV 1, t.fb, t.status.valid, t.remain, t.nblk, t.status.mode)) =
      some (0x6bc8513224b45dc2c837c18533d3efdd#128, 0x6bc8513224b45dc2c837c18533d3efdd#128, 16, 0, 0, .idle) := by
  decide +kernel
/-- FLEN 0, 20, 23, 24, 25, 39, 40, 41 and 56: the error code, NBLK and MODE. -/
theorem test_cbcdStart :
    [0, 20, 23, 24, 25, 39, 40, 41, 56].map (fun n => after (exec (.cbcdStart 16 7) (withLengths 16 n))
      fun t => (t.status.err.code.toNat, t.nblk.toNat, t.status.mode)) =
    [some (3, 0, .idle), some (3, 0, .idle), some (3, 0, .idle), some (0, 0, .idle), some (4, 0, .idle),
     some (4, 0, .idle), some (0, 1, .dec), some (4, 0, .idle), some (0, 2, .dec)] := by decide +kernel
theorem test_cbcdBlock : after (exec (.cbcdBlock 16 1 0) ((streaming .dec 1 16).writeV 0 0x6bc8513224b45dc2c837c18533d3efdd#128))
    (fun t => (t.readV 1, t.fb, t.status.valid, t.remain, t.status.mode)) =
      some (0x41414141414141414141414141414141#128, 0x6bc8513224b45dc2c837c18533d3efdd#128, 16, 0, .idle) := by
  decide +kernel
/-- The second block of a 3-block frame with SLEN = 20, and the third. -/
theorem test_cbcdBlock_valid :
    after (exec (.cbcdBlock 16 1 0) (streaming .dec 2 4)) (fun t => (t.status.valid, t.remain, t.nblk, t.status.mode)) =
        some (4, 0, 1, .dec) ∧
      after (exec (.cbcdBlock 16 1 0) (streaming .dec 1 0)) (fun t => (t.status.valid, t.status.mode)) = some (0, .idle) := by
  decide +kernel
theorem test_cbcAbort : after (exec .cbcAbort (streaming .enc 3 40)) (fun t => (t.status.mode, t.nblk, t.remain, t.fb)) =
    some (.idle, 0, 0, iv) := by decide +kernel
/-- The frame of the 16-byte stream. -/
theorem test_frame :
    frameBytes 16 iv [0x6bc8513224b45dc2c837c18533d3efdd#128] =
      [0x00#8, 0x00#8, 0x00#8, 0x00#8, 0x00#8, 0x00#8, 0x00#8, 0x10#8] ++
      [0x00#8, 0x11#8, 0x22#8, 0x33#8, 0x44#8, 0x55#8, 0x66#8, 0x77#8, 0x88#8, 0x99#8, 0xaa#8, 0xbb#8, 0xcc#8, 0xdd#8, 0xee#8, 0xff#8] ++
      [0x6b#8, 0xc8#8, 0x51#8, 0x32#8, 0x24#8, 0xb4#8, 0x5d#8, 0xc2#8, 0xc8#8, 0x37#8, 0xc1#8, 0x85#8, 0x33#8, 0xd3#8, 0xef#8, 0xdd#8] := by
  decide +kernel

/-- 44 R239: of a block with VALID = 4 (3.8's second block, "BBBB") the host keeps the first 4 bytes; and STATUS's ERR. -/
theorem test_keptBytes :
    keptBytes [0x00000402#32, 0x42424242#32, 0, 0, 0] = [0x42#8, 0x42#8, 0x42#8, 0x42#8] ∧ statusErr 0x00030002#32 = 3#8 := by
  decide +kernel
/-- The fields of the 16-byte stream's frame, which has one block. -/
theorem test_frame_fields :
    frameSlen (frameBytes 16 iv [iv]) = 16 ∧ frameIv (frameBytes 16 iv [0]) = iv ∧ frameBlocks (frameBytes 16 0 [iv]) = [iv] := by
  decide +kernel

/-! ## Control, errors, the port and the interrupt -/

/-- 45 R260's example: ERR = 3, then NOP. -/
theorem test_nop : after (exec .nop { idle with status := { idle.status with err := .frameTooShort } })
    (fun t => (t.status.err, t.status.done)) = some (.ok, true) := by decide +kernel
/-- Section 3.10. -/
theorem test_error_priority :
    after (runCommand (running 0x00880F09#32)) (·.status.err) = some .illegalCommand ∧
      after (runCommand (running 0x50010F10#32)) (·.status.err) = some .illegalCommand ∧
      after (runCommand (running 0x00130F23#32)) (·.status.err) = some .invalidBlockSize ∧
      after (runCommand ((streaming .enc 1 16).issue 0x00131023#32)) (·.status.err) = some .sequenceError ∧
      after (runCommand ((withLengths 0 20).issue 0x00700F22#32)) (·.status.err) = some .invalidBlockSize ∧
      after (runCommand ((withLengths 0 20).issue 0x00701022#32)) (·.status.err) = some .frameTooShort ∧
      after (runCommand ((withLengths 0 41).issue 0x00701022#32)) (·.status.err) = some .truncatedCiphertext := by
  decide +kernel
/-- 3.9: a key of 16 declared bytes. -/
theorem test_expand_key_size : after (runCommand (running 0x0100101A#32)) (·.status.err) = some .invalidKeySize := by
  decide +kernel
/-- 20 R85's example: the four words of a block. -/
theorem test_ldv : after (core.run 4 { idle with agenda := ldv 0 0x8899aabbccddeeff0011223344556677#128 }) (·.readV 0) =
    some 0x8899aabbccddeeff0011223344556677#128 ∧
    ldv 0 0x8899aabbccddeeff0011223344556677#128 =
      [wr 0x40#8 0x8899AABB#32, wr 0x44#8 0xCCDDEEFF#32, wr 0x48#8 0x00112233#32, wr 0x4C#8 0x44556677#32] := by decide +kernel
/-- 20 R84, 10 R40: a read of ID, at 0x00 to 0x03. -/
theorem test_read_id : (State.reset.portRead 0x03#8).reads = [0x4B5A4331#32] := by decide +kernel
/-- 10 R55: STATUS, CTRL and CMD read 0 after reset, and IRQ is 0. -/
theorem test_reset_values :
    State.reset.regRead .status = 0 ∧ State.reset.regRead .ctrl = 0 ∧ State.reset.regRead .cmd = 0 ∧ State.reset.irq = false := by
  decide +kernel

/-! ## Witnesses: states and operands that meet the hypotheses of a statement, at the bounds of each clause -/

/-- The hypotheses of `RunsAs op`: the word w has neither reserved bit, and has OP with either of them set. -/
def MeetsRunsAs (op : Byte) (w : Word) : Bool :=
  (fieldOp (running w).cmd == op && !(running w).cmd.getLsbD 19 && !(running w).cmd.getLsbD 23) &&
    (fieldOp (running (w ||| 0x00080000#32)).cmd == op && (running (w ||| 0x00080000#32)).cmd.getLsbD 19) &&
    (fieldOp (running (w ||| 0x00800000#32)).cmd == op && (running (w ||| 0x00800000#32)).cmd.getLsbD 23)

/-- The hypotheses of `RunsAsRoundKey op` as well: IMM is 9 in w and 10 in w'. -/
def MeetsRunsAsRoundKey (op : Byte) (w w' : Word) : Bool :=
  MeetsRunsAs op w && (fieldImm (running w).cmd).toNat == 9 && fieldOp (running w').cmd == op &&
    (fieldImm (running w').cmd).toNat == 10

theorem witness_wrongLen : (0#8 ≠ 16#8 ∧ 15#8 ≠ 16#8 ∧ 17#8 ≠ 16#8 ∧ 255#8 ≠ 16#8) ∧ 31#8 ≠ 32#8 ∧ 16#8 ≠ 32#8 ∧ 33#8 ≠ 32#8 := by
  decide

theorem witness_DecodeOfEncode : (Instr.round 255 7 7 9).wellFormed = true ∧ (Instr.rcon 7 31).wellFormed = true := by decide
theorem witness_UnusedFieldsIgnored : decode 0x0007FF00#32 = .ok .nop ∧ decode 0xFF77FF08#32 = .ok (.xor 255 7 7 7) := by
  decide +kernel
theorem witness_OpcodeTableRows :
    (⟨"ROUND", maskWithLen, 0x00001010#32⟩ : OpcodeRow) ∈ opcodeRows ∧ 0x4F771010#32 &&& maskWithLen = 0x00001010#32 ∧
      fieldOp 0x4F771010#32 ∈ roundKeyOpcodes ∧ (fieldImm 0x4F771010#32).toNat = 9 ∧
      (⟨"NOP", maskWithoutLen, 0x00000000#32⟩ : OpcodeRow) ∈ opcodeRows ∧ 0xFF77FF00#32 &&& maskWithoutLen = 0x00000000#32 ∧
      fieldOp 0xFF77FF00#32 ∉ roundKeyOpcodes := by decide +kernel

theorem witness_GfmulCommand : MeetsRunsAs 0x01#8 0x01021001#32 ∧ 15#8 ≠ 16#8 := by decide
theorem witness_GfmulLaws : (0x01#8 : Byte) ≠ 0 ∧ (0xFF#8 : Byte) ≠ 0 := by decide
theorem witness_SubstitutionInverse : Config.rom.WellFormed := rom_wellFormed
theorem witness_DiffuseStepInverse : Config.rom.lcoef 15 = 0x01#8 := rfl
theorem witness_DiffuseInverse : Config.rom.lcoef 15 = 0x01#8 := rfl
theorem witness_SubCommand : MeetsRunsAs 0x02#8 0x00011002#32 ∧ 15#8 ≠ 16#8 := by decide
theorem witness_IsubCommand : MeetsRunsAs 0x03#8 0x00011003#32 ∧ 15#8 ≠ 16#8 := by decide
theorem witness_RstepCommand : MeetsRunsAs 0x04#8 0x00011004#32 ∧ 15#8 ≠ 16#8 := by decide
theorem witness_IrstepCommand : MeetsRunsAs 0x05#8 0x00011005#32 ∧ 15#8 ≠ 16#8 := by decide
theorem witness_LinCommand : MeetsRunsAs 0x06#8 0x00011006#32 ∧ 15#8 ≠ 16#8 := by decide
theorem witness_IlinCommand : MeetsRunsAs 0x07#8 0x00011007#32 ∧ 15#8 ≠ 16#8 := by decide
theorem witness_XorCommand : MeetsRunsAs 0x08#8 0x01021008#32 ∧ 15#8 ≠ 16#8 ∧ (3 : VReg) = 3 := by decide

theorem witness_RoundCommand : MeetsRunsAsRoundKey 0x10#8 0x48011010#32 0x50011010#32 ∧
    9 < (10 : Imm).toNat ∧ (9 : Imm).toNat ≤ 9 ∧ 15#8 ≠ 16#8 ∧ (9 : Imm).toNat = (9 : RKReg).val := by decide
theorem witness_IroundCommand : MeetsRunsAsRoundKey 0x11#8 0x48011011#32 0x50011011#32 ∧
    9 < (10 : Imm).toNat ∧ (9 : Imm).toNat ≤ 9 ∧ 15#8 ≠ 16#8 ∧ (9 : Imm).toNat = (9 : RKReg).val := by decide
/-- A source that holds a round's result. -/
theorem witness_IroundCommand_inverse : ∃ p : Block,
    (idle.writeV 0 (diffuse Config.rom (substitute Config.rom (iv ^^^ idle.readRK 9)))).readV 0 =
      diffuse Config.rom (substitute Config.rom (p ^^^ idle.readRK 9)) := ⟨iv, rfl⟩

/-- The running value of R190, from the plaintext P. -/
def encRun (rk : Nat → Block) (p : Block) : Nat → Block
  | 0 => p
  | n + 1 => diffuse Config.rom (substitute Config.rom (encRun rk p n ^^^ rk n))

theorem witness_EncCommand : MeetsRunsAs 0x12#8 0x00121012#32 ∧ 15#8 ≠ 16#8 := by decide
theorem witness_EncCommand_run : ∃ v : Nat → Block, v 0 = golden.readV 0 ∧ ∀ i : Fin 9,
    v (i.val + 1) = diffuse Config.rom (substitute Config.rom (v i.val ^^^ golden.readRK ⟨i.val, by omega⟩)) := by
  refine ⟨encRun (fun n => if h : n < 10 then golden.readRK ⟨n, h⟩ else 0) (golden.readV 0), rfl, fun i => ?_⟩
  have h : i.val < 10 := by omega
  simp only [encRun, h, dite_true]

/-- The running value of R191, n steps before the last: `decRun rk x n` is v (9 - n). -/
def decRun (rk : Nat → Block) (x : Block) : Nat → Block
  | 0 => x
  | n + 1 => inverseSubstitute Config.rom (inverseDiffuse Config.rom (decRun rk x n)) ^^^ rk (8 - n)

theorem witness_DecCommand : MeetsRunsAs 0x13#8 0x00231013#32 ∧ 15#8 ≠ 16#8 := by decide
theorem witness_DecCommand_run : ∃ v : Nat → Block, v 9 = golden.readV 0 ^^^ golden.readRK 9 ∧ ∀ i : Fin 9,
    v i.val = inverseSubstitute Config.rom (inverseDiffuse Config.rom (v (i.val + 1))) ^^^ golden.readRK ⟨i.val, by omega⟩ := by
  refine ⟨fun n => decRun (fun n => if h : n < 10 then golden.readRK ⟨n, h⟩ else 0) (golden.readV 0 ^^^ golden.readRK 9) (9 - n),
    rfl, fun i => ?_⟩
  have h : i.val < 10 := by omega
  have h9 : 9 - i.val = 9 - (i.val + 1) + 1 := by omega
  have h8 : 8 - (9 - (i.val + 1)) = i.val := by omega
  simp only [h9, decRun, h8, h, dite_true]

theorem witness_RkldCommand : MeetsRunsAsRoundKey 0x14#8 0x48001014#32 0x50001014#32 ∧
    9 < (31 : Imm).toNat ∧ (0 : Imm).toNat ≤ 9 ∧ 17#8 ≠ 16#8 ∧ (0 : Imm).toNat = (0 : RKReg).val ∧ (1 : RKReg) ≠ 0 := by decide
theorem witness_RkstCommand : MeetsRunsAsRoundKey 0x15#8 0x48040015#32 0x50040015#32 ∧
    9 < (10 : Imm).toNat ∧ (9 : Imm).toNat = (9 : RKReg).val := by decide
theorem witness_BlockRoundTrip : Config.rom.WellFormed := rom_wellFormed

theorem witness_RconCommand : MeetsRunsAs 0x18#8 0xF8050018#32 ∧ 0 < 1 ∧ 15 < 16 := by decide
theorem witness_FeistelCommand : MeetsRunsAs 0x19#8 0x01021019#32 ∧ 15#8 ≠ 16#8 := by decide

/-- The pair of 43 R212 after n steps. -/
def feistelRun (lr : Block × Block) : Nat → Block × Block
  | 0 => lr
  | n + 1 => (diffuse Config.rom (substitute Config.rom ((feistelRun lr n).1 ^^^ roundConstant n)) ^^^ (feistelRun lr n).2,
      (feistelRun lr n).1)

theorem witness_ExpandCommand : MeetsRunsAs 0x1A#8 0x0100201A#32 ∧ 16#8 ≠ 32#8 := by decide
theorem witness_ExpandCommand_run : ∃ l r : Nat → Block, l 0 = idle.readV 0 ∧ r 0 = idle.readV 1 ∧ ∀ m < 32,
    l (m + 1) = diffuse Config.rom (substitute Config.rom (l m ^^^ roundConstant m)) ^^^ r m ∧ r (m + 1) = l m :=
  ⟨fun n => (feistelRun (idle.readV 0, idle.readV 1) n).1, fun n => (feistelRun (idle.readV 0, idle.readV 1) n).2,
    by simp only [feistelRun], by simp only [feistelRun], fun m _ => by simp only [feistelRun, and_self]⟩

/-- A NOP; an executing CBC_ABORT; and an idle core whose CMD still holds an EXPAND. -/
theorem witness_ScheduleShape : (∃ t, exec .nop idle = .next t) ∧ Instr.nop.mnemonic ≠ "EXPAND" ∧ Instr.nop.mnemonic ≠ "RKLD" ∧
    (running 0x00000024#32).rstN = true ∧ (∃ t, step (running 0x00000024#32) = .next t) ∧
    ((running 0x00000024#32).status.busy = true ∧ decode (running 0x00000024#32).cmd = .ok .cbcAbort ∧
      Instr.cbcAbort.mnemonic ≠ "EXPAND" ∧ Instr.cbcAbort.mnemonic ≠ "RKLD") ∧
    ∃ s t : State, s.rstN = true ∧ s.status.busy = false ∧ s.cmd = 0x0100201A#32 ∧ step s = .next t :=
  ⟨⟨_, rfl⟩, by decide, by decide, rfl, ⟨_, rfl⟩, by decide +kernel, { idle with cmd := 0x0100201A#32 }, _, rfl, rfl, rfl, rfl⟩

theorem witness_CbceStartCommand : MeetsRunsAs 0x20#8 0x00701020#32 ∧ 15#8 ≠ 16#8 := by decide
theorem witness_CbceBlockCommand : MeetsRunsAs 0x21#8 0x00011021#32 ∧ 15#8 ≠ 16#8 ∧ idle.status.mode ≠ .enc ∧
    (streaming .dec 1 16).status.mode ≠ .enc ∧ (streaming .enc 1 16).status.mode = .enc := by decide
theorem witness_CbcdStartCommand : MeetsRunsAs 0x22#8 0x00701022#32 ∧ 15#8 ≠ 16#8 ∧ (withLengths 0 23).flen.toNat < 24 ∧
    (24 ≤ (withLengths 0 25).flen.toNat ∧ ((withLengths 0 25).flen.toNat - 24) % 16 ≠ 0) ∧
    (24 ≤ (withLengths 0 39).flen.toNat ∧ ((withLengths 0 39).flen.toNat - 24) % 16 ≠ 0) ∧
    (24 ≤ (withLengths 0 24).flen.toNat ∧ ((withLengths 0 24).flen.toNat - 24) % 16 = 0) ∧
    (24 ≤ (withLengths 0 40).flen.toNat ∧ ((withLengths 0 40).flen.toNat - 24) % 16 = 0) := by decide
theorem witness_CbcdBlockCommand : MeetsRunsAs 0x23#8 0x00011023#32 ∧ 15#8 ≠ 16#8 ∧ idle.status.mode ≠ .dec ∧
    (streaming .enc 1 16).status.mode ≠ .dec ∧ (streaming .dec 1 0).status.mode = .dec := by decide
theorem witness_CbcAbortCommand : MeetsRunsAs 0x24#8 0x00000024#32 := by decide

/-- A step that opens a stream; a completion with an error; and a completion without one for each arm. -/
theorem witness_ModeTransitions :
    (idle.rstN = true ∧ ∃ t, step ((withLengths 16 0).issue 0x00701020#32) = .next t ∧ t.status.mode ≠ .idle) ∧
    (∃ t, exec (.enc 15 2 1) idle = .next t ∧ t.status.err ≠ .ok) ∧
    (∃ t, exec (.cbceStart 16 7) (withLengths 1 0) = .next t ∧ t.status.err = .ok) ∧
    (∃ t, exec (.cbceStart 16 7) (withLengths 0 0) = .next t ∧ t.status.err = .ok) ∧
    (∃ t, exec (.cbcdStart 16 7) (withLengths 0 24) = .next t ∧ t.status.err = .ok) ∧
    (∃ t, exec (.cbcdStart 16 7) (withLengths 0 40) = .next t ∧ t.status.err = .ok) ∧
    (∃ t, exec (.cbceBlock 16 1 0) (streaming .enc 1 16) = .next t ∧ t.status.err = .ok) ∧
    (∃ t, exec (.cbceBlock 16 1 0) (streaming .enc 2 32) = .next t ∧ t.status.err = .ok) ∧
    (∃ t, exec (.cbcdBlock 16 1 0) (streaming .dec 1 16) = .next t ∧ t.status.err = .ok) ∧
    (∃ t, exec (.cbcdBlock 16 1 0) (streaming .dec 2 16) = .next t ∧ t.status.err = .ok) ∧
    (∃ t, exec .cbcAbort (streaming .dec 2 16) = .next t ∧ t.status.err = .ok) ∧
    (∃ t, exec .nop (streaming .dec 2 16) = .next t ∧ t.status.err = .ok) :=
  ⟨⟨rfl, _, rfl, by decide⟩, ⟨_, rfl, by decide⟩, ⟨_, rfl, rfl⟩, ⟨_, rfl, rfl⟩, ⟨_, rfl, rfl⟩, ⟨_, rfl, rfl⟩, ⟨_, rfl, rfl⟩,
    ⟨_, rfl, rfl⟩, ⟨_, rfl, rfl⟩, ⟨_, rfl, rfl⟩, ⟨_, rfl, rfl⟩, ⟨_, rfl, rfl⟩⟩

theorem witness_NonStreamCommandsKeepStream : (∃ t, exec (.expand 32 0 1) (streaming .enc 1 16) = .next t) ∧
    (Instr.expand 32 0 1).opcode.toNat < 0x20 := ⟨⟨_, rfl⟩, by decide⟩

/-- The ROM contents of the spec's defaults are parameters of the machine. -/
def defaultParameters : Parameters := ⟨Config.rom, rom_wellFormed⟩

/-- Other contents R13 allows: the identity for PI, and only LCOEF[15] nonzero. -/
def plainParameters : Parameters :=
  ⟨{ pi := id, lcoef := fun i => if i = 15 then 1 else 0 }, Function.injective_id, by decide⟩

/-- The empty stream, and a stream of 20 bytes in 2 blocks. -/
theorem witness_StreamEncryption :
    (∃ s : State, s.rstN = true ∧ s.status.busy = false ∧ s.agenda = encryptStreamTurns 0 iv [] ∧
      ([] : List Block).length = ((0 : Dword).toNat + 15) / 16) ∧
    ∃ s : State, s.rstN = true ∧ s.status.busy = false ∧ s.agenda = encryptStreamTurns 20 iv [iv, 0] ∧
      [iv, 0].length = ((20 : Dword).toNat + 15) / 16 :=
  ⟨⟨{ golden with agenda := encryptStreamTurns 0 iv [] }, rfl, rfl, rfl, by decide⟩,
    ⟨{ golden with agenda := encryptStreamTurns 20 iv [iv, 0] }, rfl, rfl, rfl, by decide⟩⟩

/-- Frames of 20 and 25 bytes, turned down, and of 24 and 40, taken. -/
theorem witness_StreamRoundTrip_decrypts : ∀ n ∈ [20, 25, 24, 40], ∃ (s : State) (frame : List Byte), s.rstN = true ∧
    s.status.busy = false ∧ s.agenda = decryptStreamTurns frame ∧ frame.length = n ∧ frame.length < 2 ^ 64 ∧
    frameLengthOk frame.length = decide (n = 24 ∨ n = 40) := by
  intro n hn
  have hl : (List.replicate n (0 : Byte)).length = n := List.length_replicate
  refine ⟨{ golden with agenda := decryptStreamTurns (List.replicate n 0) }, List.replicate n 0, rfl, rfl, rfl, hl, ?_, ?_⟩ <;>
    rw [hl] <;> revert n hn <;> decide

/-- The empty stream, and the stream of 20 bytes. -/
theorem witness_StreamRoundTrip : ∀ x ∈ [((0 : Dword), ([] : List Block)), (20, [iv, 0])], ∃ s : State, s.rstN = true ∧
    s.status.busy = false ∧ x.2.length = (x.1.toNat + 15) / 16 ∧ 24 + 16 * x.2.length < 2 ^ 64 ∧
    s.agenda = encryptStreamTurns x.1 iv x.2 ++ decryptStreamTurns (encryptStream Config.rom s.rk x.1 iv x.2) := by
  intro x hx
  refine ⟨golden.withAgenda
    (encryptStreamTurns x.1 iv x.2 ++ decryptStreamTurns (encryptStream Config.rom golden.rk x.1 iv x.2)), rfl, rfl, ?_, ?_, rfl⟩ <;>
    revert x hx <;> decide

theorem witness_NopCommand : MeetsRunsAs 0x00#8 0x00000000#32 := by decide
theorem witness_StepRunsDecodedCommand : (running 0xF8050018#32).rstN = true ∧ (running 0xF8050018#32).status.busy = true ∧
    decode (running 0xF8050018#32).cmd = .ok (.rcon 5 31) ∧ (running 0xF8050018#32).agenda = [] ∧
    ({ running 0xF8050018#32 with agenda := [.sequencer] }).agenda = .sequencer :: [] ∧
    idle.rstN = true ∧ idle.status.busy = false ∧ idle.agenda = [] ∧
    ({ idle with agenda := [.sequencer] }).agenda = .sequencer :: [] ∧
    ({ idle with agenda := [wr offCtrl 1] }).agenda = .host (.write 0x04#8 1) :: [] := by decide +kernel
theorem witness_StepRunsDecodedCommand_parameters : ∃ p : Parameters, p.rom = Config.rom := ⟨defaultParameters, rfl⟩
theorem witness_CommandIssue :
    (∃ s : State, s.rstN = true ∧ s.agenda = .host (.write 0x0C#8 0) :: [] ∧ s.status.busy = false) ∧
    (∃ s : State, s.rstN = true ∧ s.agenda = .host (.write 0x0F#8 0) :: [] ∧ s.status.busy = true) ∧
    (0x0C#8).toNat / 4 = 3 ∧ (0x0F#8).toNat / 4 = 3 :=
  ⟨⟨{ idle with agenda := [.host (.write 0x0C#8 0)] }, rfl, rfl, rfl⟩,
    ⟨{ running 0 with agenda := [.host (.write 0x0F#8 0)] }, rfl, rfl, rfl⟩, by decide⟩
theorem witness_EveryWordCompletes :
    ∃ s : State, s.rstN = true ∧ s.status.busy = true ∧ s.agenda = .sequencer :: [] ∧ ∃ e, decode s.cmd = .error e :=
  ⟨{ running 0x000000FF#32 with agenda := [.sequencer] }, rfl, rfl, rfl, .reservedOpcode, by decide +kernel⟩

/-- One running word for each clause: a reserved bit, a reserved OP at each end of its ranges, IMM 10, the wrong LENs, the
wrong modes, the frame bounds, and the clauses of success. -/
theorem witness_ErrorPriority :
    ((running 0x00080000#32).cmd.getLsbD 19 = true ∧ (running 0x00800000#32).cmd.getLsbD 23 = true) ∧
    ((running 0x00000009#32).cmd.getLsbD 19 = false ∧ (running 0x00000009#32).cmd.getLsbD 23 = false) ∧
    (fieldOp (running 0x50000015#32).cmd ∈ roundKeyOpcodes ∧ 9 < (fieldImm (running 0x50000015#32).cmd).toNat) ∧
    (fieldOp (running 0x0100101A#32).cmd = 0x1A#8 ∧ fieldLen (running 0x0100101A#32).cmd ≠ 32#8) ∧
    (fieldOp (running 0x0100201A#32).cmd = 0x1A#8 ∧ fieldLen (running 0x0100201A#32).cmd = 32#8) ∧
    ((fieldImm (running 0x48000F10#32).cmd).toNat ≤ 9 ∧ fieldOp (running 0x48000F10#32).cmd ∈ blockLenOpcodes ∧
      fieldLen (running 0x48000F10#32).cmd ≠ 16#8) ∧
    (fieldOp (idle.issue 0x00011021#32).cmd = 0x21#8 ∧ fieldLen (idle.issue 0x00011021#32).cmd = 16#8 ∧
      (idle.issue 0x00011021#32).status.mode ≠ .enc ∧ ((streaming .enc 1 16).issue 0x00011021#32).status.mode = .enc) ∧
    (fieldOp (idle.issue 0x00011023#32).cmd = 0x23#8 ∧ fieldLen (idle.issue 0x00011023#32).cmd = 16#8 ∧
      (idle.issue 0x00011023#32).status.mode ≠ .dec ∧ ((streaming .dec 1 16).issue 0x00011023#32).status.mode = .dec) ∧
    (fieldOp ((withLengths 0 23).issue 0x00701022#32).cmd = 0x22#8 ∧ ((withLengths 0 23).issue 0x00701022#32).flen.toNat < 24 ∧
      ((withLengths 0 25).issue 0x00701022#32).flen.toNat = 25 ∧ ((withLengths 0 24).issue 0x00701022#32).flen.toNat = 24) ∧
    (fieldOp (running 0x48000015#32).cmd ∈ noLenOpcodes ∧ (fieldImm (running 0x48000015#32).cmd).toNat = 9) := by
  decide +kernel
theorem witness_reservedOpcodes :
    (∀ op ∈ [0x09#8, 0x0F#8, 0x16#8, 0x17#8, 0x1B#8, 0x1F#8, 0x25#8, 0xFF#8], ReservedOpcode op) ∧
      ∀ op ∈ [0x08#8, 0x10#8, 0x15#8, 0x18#8, 0x1A#8, 0x20#8, 0x24#8], ¬ReservedOpcode op := by
  unfold ReservedOpcode; decide
theorem witness_ErrorCodesPerCommand :
    (∃ t, runCommand (running 0x00000024#32) = .next t ∧ fieldOp (running 0x00000024#32).cmd ∈ noLenOpcodes) ∧
    (∃ t, runCommand (running 0x00011004#32) = .next t ∧ fieldOp (running 0x00011004#32).cmd ∈ blockLenOpcodes ∧
      fieldOp (running 0x00011004#32).cmd ≠ 0x21#8 ∧ fieldOp (running 0x00011004#32).cmd ≠ 0x22#8 ∧
      fieldOp (running 0x00011004#32).cmd ≠ 0x23#8) ∧
    (∃ t, runCommand (running 0x0000001A#32) = .next t ∧ fieldOp (running 0x0000001A#32).cmd = 0x1A#8) ∧
    (∃ t, runCommand (running 0x00001021#32) = .next t ∧ fieldOp (running 0x00001021#32).cmd = 0x21#8) ∧
    (∃ t, runCommand (running 0x00001023#32) = .next t ∧ fieldOp (running 0x00001023#32).cmd = 0x23#8) ∧
    (∃ t, runCommand (running 0x00001022#32) = .next t ∧ fieldOp (running 0x00001022#32).cmd = 0x22#8) ∧
    (∃ t, runCommand (running 0x000000FF#32) = .next t ∧ ReservedOpcode (fieldOp (running 0x000000FF#32).cmd)) :=
  ⟨⟨_, rfl, by decide⟩, ⟨_, rfl, by decide⟩, ⟨_, rfl, by decide⟩, ⟨_, rfl, by decide⟩, ⟨_, rfl, by decide⟩,
    ⟨_, rfl, by decide⟩, ⟨_, rfl, by unfold ReservedOpcode; decide⟩⟩
theorem witness_ErrorsArePrecise : ∃ t, runCommand (running 0x000000FF#32) = .next t ∧ t.status.err ≠ .ok :=
  ⟨_, rfl, by decide⟩

/-- No access, and a dropped write and a read, before the completion. -/
theorem witness_HostCannotDisturbCommand :
    (∃ s : State, s.rstN = true ∧ s.status.busy = true ∧ s.agenda = [].map Turn.host ++ .sequencer :: []) ∧
    ∃ s : State, s.rstN = true ∧ s.status.busy = true ∧
      s.agenda = [Access.write 0x40#8 1, .read 0x40#8].map Turn.host ++ .sequencer :: [] :=
  ⟨⟨{ running 0 with agenda := [.sequencer] }, rfl, rfl, rfl⟩,
    ⟨{ running 0 with agenda := [.host (.write 0x40#8 1), .host (.read 0x40#8), .sequencer] }, rfl, rfl, rfl⟩⟩
theorem witness_CommandEventuallyCompletes :
    (∃ s : State, s.rstN = true ∧ s.status.busy = true ∧ s.agenda = [] ∧ Turn.assertReset ∉ s.agenda) ∧
    ∃ s : State, s.rstN = true ∧ s.status.busy = true ∧ s.agenda = [.releaseReset, rd 0x08#8] ∧ Turn.assertReset ∉ s.agenda :=
  ⟨⟨running 0, rfl, rfl, rfl, by decide⟩, ⟨{ running 0 with agenda := [.releaseReset, rd 0x08#8] }, rfl, rfl, rfl, by decide⟩⟩

theorem witness_WindowReads : idle.status.busy = false ∧
    (∀ off ∈ [0x30#8, 0x3F#8], 0x30 ≤ off.toNat ∧ off.toNat < 0x40) ∧ ∀ off ∈ [0xC0#8, 0xFF#8], 0xC0 ≤ off.toNat := by decide
theorem witness_WindowWrites : idle.status.busy = false ∧ (∀ off ∈ [0x00#8, 0x03#8], off.toNat < 4) ∧
    (∀ off ∈ [0x20#8, 0x2F#8, 0x30#8, 0x3F#8], 0x20 ≤ off.toNat ∧ off.toNat < 0x40) ∧
    ∀ off ∈ [0xC0#8, 0xFF#8], 0xC0 ≤ off.toNat := by decide
theorem witness_BlockRegisterWords : idle.status.busy = false ∧ offV 0 0 = 0x40#8 ∧ offV 7 3 = 0xBC#8 := by decide
theorem witness_AccessWhileBusy : (running 0).status.busy = true ∧
    (∀ off ∈ [0x00#8, 0x1F#8], off.toNat < 0x20) ∧ (∀ off ∈ [0x20#8, 0x2F#8], 0x20 ≤ off.toNat ∧ off.toNat < 0x30) ∧
    (∀ off ∈ [0x40#8, 0xBF#8], 0x40 ≤ off.toNat ∧ off.toNat < 0xC0) ∧ (∀ off ∈ [0x04#8, 0x07#8], off.toNat / 4 = 1) ∧
    (∀ off ∈ [0x08#8, 0x0B#8], off.toNat / 4 = 2) ∧
    ∀ off ∈ [0x03#8, 0x0C#8, 0x40#8, 0xFF#8], off.toNat / 4 ≠ 1 ∧ off.toNat / 4 ≠ 2 := by decide

theorem witness_InterruptLevel : (∃ t, runCommand (running 0) = .next t) ∧ idle.status.busy = false ∧
    (0x00000002#32).getLsbD 1 = true ∧ (0xFFFFFFFE#32).getLsbD 0 = false ∧ (running 0).status.busy = true ∧
    (0x0C#8).toNat / 4 ≠ 1 ∧ (0x0C#8).toNat / 4 ≠ 2 := ⟨⟨_, rfl⟩, by decide⟩

theorem witness_ResetSequence :
    (∃ s : State, s.agenda = .assertReset :: [] ∧ s.status.busy = true) ∧
    (∃ s : State, s.rstN = false ∧ s.agenda = .sequencer :: []) ∧
    (∃ s : State, s.rstN = false ∧ s.agenda = .host (.write 0x0C#8 0) :: []) ∧
    ∃ s : State, s.rstN = false ∧ s.agenda = .releaseReset :: [] :=
  ⟨⟨{ running 0 with agenda := [.assertReset] }, rfl, rfl⟩, ⟨{ idle.assertReset with agenda := [.sequencer] }, rfl, rfl⟩,
    ⟨{ idle.assertReset with agenda := [.host (.write 0x0C#8 0)] }, rfl, rfl⟩,
    ⟨{ idle.assertReset with agenda := [.releaseReset] }, rfl, rfl⟩⟩
/-- An executing CBCE_BLOCK in an open stream of 2 blocks and 20 bytes. -/
theorem witness_StepKeepsInvariant : ((streaming .enc 2 20).issue 0x00011021#32).Inv ∧
    ∃ t, step ((streaming .enc 2 20).issue 0x00011021#32) = .next t :=
  ⟨by unfold State.Inv; decide, ⟨_, rfl⟩⟩
theorem witness_InstancesIndependent : ∃ (sys sys' : System), sys.stepAt plainParameters 1 = .next sys' ∧ (0 : Nat) ≠ 1 ∧
    sys.cores[1]? = some (running 0) := ⟨⟨idle, [running 0]⟩, _, rfl, by decide, rfl⟩

end Sys2Proof.Tests
end

/-! SUPPORT. Proofs of the statements of 10_state: what a command's completion writes, what a port access can do, what each
turn keeps of the invariant, and the STATUS and CTRL words. -/

namespace Sys2Proof.Machine

/-! ## What a completion writes and keeps -/

/-- Every completion is ERR, DONE and BUSY written over a state with the host's side as it was, and never with code 7
(30 R126, 60 R270). -/
theorem exec_eq_complete {i : Instr} {s t : State} (h : exec i s = .next t) :
    ∃ u c, KeepsHostSide s u ∧ c ≠ .invalidInputLength ∧ t = u.complete c := by
  rcases exec_cases h with ⟨c, -, hc, rfl⟩ | ⟨-, hn⟩ | ⟨l, s1, -, rfl⟩ | ⟨l, s1, -, -, -, rfl⟩ |
    ⟨l, d, s1, c, -, -, rfl⟩ | ⟨l, d, s1, c, p, -, -, rfl⟩ | ⟨-, rfl⟩
  · exact ⟨s, c, by simp [KeepsHostSide], hc, rfl⟩
  · cases hn with
    | none h | block d b h | key hi k b h | schedule hi k h => exact ⟨_, _, by simp [KeepsHostSide], by decide, h⟩
  · exact ⟨_, _, by simp [KeepsHostSide], by decide, rfl⟩
  · exact ⟨_, _, by simp [KeepsHostSide], by decide, rfl⟩
  · exact ⟨_, _, by simp [KeepsHostSide, cbceBlockWrites], by decide, rfl⟩
  · exact ⟨_, _, by simp [KeepsHostSide, cbcdBlockWrites], by decide, rfl⟩
  · exact ⟨_, _, by simp [KeepsHostSide], by decide, rfl⟩

/-- The executing command's completion: a word that is no command fails with IllegalCommand, and the others run
(30 R119, R120). -/
theorem runCommand_cases {s t : State} (h : runCommand s = .next t) :
    t = s.complete .illegalCommand ∨ ∃ i, decode s.cmd = .ok i ∧ exec i s = .next t := by
  cases hd : decode s.cmd with
  | error e => exact .inl (Host.Outcome.next.inj ((runCommandBy_of_error exec hd).symm.trans h)).symm
  | ok i => exact .inr ⟨i, rfl, (runCommandBy_of_ok exec hd).symm.trans h⟩

theorem runCommand_eq_complete {s t : State} (h : runCommand s = .next t) :
    ∃ u c, KeepsHostSide s u ∧ c ≠ .invalidInputLength ∧ t = u.complete c := by
  rcases runCommand_cases h with rfl | ⟨i, -, hi⟩
  · exact ⟨s, _, by simp [KeepsHostSide], by decide, rfl⟩
  · exact exec_eq_complete hi

theorem runCommand_completes {s t : State} (h : runCommand s = .next t) :
    ∃ c, c ≠ .invalidInputLength ∧ CompletedWith c t := by
  obtain ⟨u, c, -, hc, rfl⟩ := runCommand_eq_complete h
  exact ⟨c, hc, rfl, rfl, rfl⟩

theorem runCommand_keeps_hostSide {s t : State} (h : runCommand s = .next t) : KeepsHostSide s t := by
  obtain ⟨u, c, hu, -, rfl⟩ := runCommand_eq_complete h
  simpa [KeepsHostSide] using hu

/-! ## Every command has a next state -/

theorem withKeyLen_next {len : Byte} {s : State} {k : Result} (h : ∃ t, k = .next t) :
    ∃ t, withKeyLen len s k = .next t := by
  unfold withKeyLen
  split
  · exact h
  · exact ⟨_, rfl⟩

theorem withMode_next {m : Mode} {s : State} {k : Result} (h : ∃ t, k = .next t) : ∃ t, withMode m s k = .next t := by
  unfold withMode
  split
  · exact h
  · exact ⟨_, rfl⟩

theorem withFrame_next {flen : Dword} {s : State} {k : Result} (h : ∃ t, k = .next t) :
    ∃ t, withFrame flen s k = .next t := by
  unfold withFrame
  split
  · exact ⟨_, rfl⟩
  · split
    · exact ⟨_, rfl⟩
    · exact h

theorem exec_next (i : Instr) (s : State) : ∃ t, exec i s = .next t := by
  cases i with
  | nop => exact ⟨_, rfl⟩
  | rcon d m => exact ⟨_, rfl⟩
  | cbcAbort => exact ⟨_, rfl⟩
  | rkst d m =>
    unfold exec execRkst
    exact withRoundKey_next fun _ => ⟨_, rfl⟩
  | round l d s1 m =>
    unfold exec execRound execRoundWith
    exact withRoundKey_next fun _ => withBlockLen_next ⟨_, rfl⟩
  | iround l d s1 m =>
    unfold exec execIround execIroundWith
    exact withRoundKey_next fun _ => withBlockLen_next ⟨_, rfl⟩
  | rkld l s1 m =>
    unfold exec execRkld
    exact withRoundKey_next fun _ => withBlockLen_next ⟨_, rfl⟩
  | expand l s1 s2 => exact withKeyLen_next ⟨_, rfl⟩
  | cbcdStart l s1 => exact withBlockLen_next (withFrame_next ⟨_, rfl⟩)
  | cbceBlock l d s1 => exact withBlockLen_next (withMode_next ⟨_, rfl⟩)
  | cbcdBlock l d s1 => exact withBlockLen_next (withMode_next ⟨_, rfl⟩)
  | _ => exact withBlockLen_next ⟨_, rfl⟩

/-- The executing command completes, whatever its word (30 R119, R126). -/
theorem runCommand_next (s : State) : ∃ t, runCommand s = .next t := by
  cases hd : decode s.cmd with
  | error e => exact ⟨_, runCommandBy_of_error exec hd⟩
  | ok i => exact (exec_next i s).imp fun t ht => (runCommandBy_of_ok exec hd).trans ht

/-! ## What a port access can do -/

/-- The next state of a port access: a word returned, or one write at most. A busy core takes writes to CTRL and STATUS
only (20 R87). -/
inductive PortNext (s : State) : State → Prop where
  | returned (w : Word) : PortNext s (s.returnWord w)
  | drawn : PortNext s s.returnDraw
  | ignored : PortNext s s
  | dropped : PortNext s s.overrun
  | ctrl (w : Word) : PortNext s (s.writeCtrl w)
  | status (w : Word) : PortNext s (s.acknowledge w)
  | cmd (hb : s.status.busy = false) (w : Word) : PortNext s (s.issue w)
  | slen (hb : s.status.busy = false) (x : Dword) : PortNext s (s.writeSlen x)
  | flen (hb : s.status.busy = false) (x : Dword) : PortNext s (s.writeFlen x)
  | block (hb : s.status.busy = false) (n : VReg) (b : Block) : PortNext s (s.writeV n b)

theorem regWrite_next {s : State} {r : WindowReg} (w : Word) (h : s.status.busy = true → r.writableWhileBusy = true) :
    PortNext s (s.regWrite r w) := by
  have idle : r.writableWhileBusy = false → s.status.busy = false := fun hr => by
    cases hb : s.status.busy with
    | false => rfl
    | true => simp [h hb] at hr
  cases r with
  | ctrl => exact .ctrl w
  | status => exact .status w
  | cmd => exact .cmd (idle rfl) w
  | slenHi => exact .slen (idle rfl) _
  | slenLo => exact .slen (idle rfl) _
  | flenHi => exact .flen (idle rfl) _
  | flenLo => exact .flen (idle rfl) _
  | v n k => exact .block (idle rfl) n _
  | _ => exact .ignored

theorem portRead_next (s : State) (off : Byte) : PortNext s (s.portRead off) := by
  unfold State.portRead
  split
  · exact .drawn
  · exact .returned _

theorem portWrite_next (s : State) (off : Byte) (w : Word) : PortNext s (s.portWrite off w) := by
  unfold State.portWrite
  split
  · exact .dropped
  · next h => exact regWrite_next w fun hb => by simpa [hb] using h

theorem portAccess_next (s : State) (a : Access) : PortNext s (s.portAccess a) := by
  cases a with
  | read off => exact portRead_next s off
  | write off w => exact portWrite_next s off w

/-! ## The invariant -/

/-- What `State.Inv` says of the CBC stream: blocks are left while it is open, in ENC as many as the remaining bytes need
(10_state R44), and VALID <= 16 (R47). -/
structure State.StreamOk (s : State) : Prop where
  blocksLeft : s.status.mode ≠ .idle → s.nblk ≠ 0
  encBlocks : s.status.mode = .enc → s.nblk.toNat = (s.remain.toNat + 15) / 16
  validLe : s.status.valid.toNat ≤ 16

theorem State.Inv.streamOk {s : State} (h : s.Inv) : s.StreamOk := by
  obtain ⟨hblocks, henc, hvalid, -⟩ := h
  exact ⟨hblocks, henc, hvalid⟩

/-- A completion leaves only the stream's part of the invariant to show. -/
theorem State.StreamOk.inv_of_completed {t : State} {c : ErrCode} (h : t.StreamOk) (hc : c ≠ .invalidInputLength)
    (hd : CompletedWith c t) : t.Inv := by
  obtain ⟨herr, -, hbusy⟩ := hd
  exact ⟨h.blocksLeft, h.encBlocks, h.validLe, herr ▸ hc, by simp [hbusy], fun _ => hbusy⟩

theorem State.StreamOk.of_keepsStream {s t : State} (h : s.StreamOk) (hk : KeepsStream s t) : t.StreamOk := by
  obtain ⟨hmode, -, hnblk, hremain, hvalid⟩ := hk
  exact ⟨hmode ▸ hnblk ▸ h.blocksLeft, hmode ▸ hnblk ▸ hremain ▸ h.encBlocks, hvalid ▸ h.validLe⟩

theorem State.StreamOk.complete {s : State} (h : s.StreamOk) (c : ErrCode) : (s.complete c).StreamOk :=
  h.of_keepsStream (by simp [KeepsStream])

/-- A command that is no stream command leaves the stream as it was (44 R242). -/
theorem NonStreamNext.keepsStream {i : Instr} {s t : State} (hn : NonStreamNext i s t) : KeepsStream s t := by
  cases hn with
  | none h | block d b h | key hi k b h | schedule hi k h => simp [KeepsStream, h]

theorem eq_enc_of_modeWithBlocks {m : Mode} {n : Dword} (h : modeWithBlocks m n = .enc) : m = .enc := by
  unfold modeWithBlocks at h
  split at h
  · exact nomatch h
  · exact h

theorem streamOk_openStream {s : State} {m : Mode} (iv : Block) {n : Dword} (hv : s.status.valid.toNat ≤ 16)
    (hn : m = .enc → n.toNat = (s.slen.toNat + 15) / 16) : (s.openStream m iv n).StreamOk where
  blocksLeft := blocks_ne_zero_of_mode
  encBlocks hm := hn (eq_enc_of_modeWithBlocks hm)
  validLe := hv

/-- A block command takes one block and at most 16 bytes, so in ENC the count still fits the bytes left (44 R233). -/
theorem State.StreamOk.advanceStream {s : State} (h : s.StreamOk) (hm : s.status.mode ≠ .idle) {x : BitVec 5}
    (hx : x.toNat ≤ 16) : (s.advanceStream x).StreamOk where
  blocksLeft := blocks_ne_zero_of_mode
  encBlocks hm' := by
    have hrem := toNat_sub_validCount s.remain
    have henc := h.encBlocks (eq_enc_of_modeWithBlocks hm')
    have hpos : 1 ≤ s.nblk.toNat := Nat.one_le_iff_ne_zero.mpr fun h0 => h.blocksLeft hm (BitVec.eq_of_toNat_eq h0)
    have hdec : (s.nblk - 1).toNat = s.nblk.toNat - 1 := BitVec.toNat_sub_of_le hpos
    simp only [advanceStream_nblk, advanceStream_remain]
    omega
  validLe := hx

theorem streamOk_closeStream {s : State} (hv : s.status.valid.toNat ≤ 16) : s.closeStream.StreamOk where
  blocksLeft hm := absurd rfl hm
  encBlocks hm := nomatch hm
  validLe := hv

theorem exec_keeps_streamOk {i : Instr} {s t : State} (hs : s.StreamOk) (h : exec i s = .next t) : t.StreamOk := by
  rcases exec_cases h with ⟨c, -, -, rfl⟩ | ⟨-, hn⟩ | ⟨l, s1, -, rfl⟩ | ⟨l, s1, -, -, -, rfl⟩ |
    ⟨l, d, s1, c, -, hm, rfl⟩ | ⟨l, d, s1, c, p, -, hm, rfl⟩ | ⟨-, rfl⟩
  · exact hs.complete c
  · exact hs.of_keepsStream hn.keepsStream
  · exact (streamOk_openStream _ hs.validLe fun _ => toNat_blocksOfLength s.slen).complete .ok
  · exact (streamOk_openStream _ hs.validLe (by simp)).complete .ok
  · have hw : ((s.writeV d c).writeFB c).StreamOk := ⟨hs.blocksLeft, hs.encBlocks, hs.validLe⟩
    exact (hw.advanceStream (by simp [hm]) (by decide)).complete .ok
  · have hw : ((s.writeV d p).writeFB c).StreamOk := ⟨hs.blocksLeft, hs.encBlocks, hs.validLe⟩
    have hv : (validCount s.remain).toNat ≤ 16 := by rw [toNat_validCount]; omega
    exact (hw.advanceStream (by simp [hm]) hv).complete .ok
  · exact (streamOk_closeStream hs.validLe).complete .ok

theorem runCommand_keeps_inv {s t : State} (hs : s.Inv) (h : runCommand s = .next t) : t.Inv := by
  have hst : t.StreamOk := by
    rcases runCommand_cases h with rfl | ⟨i, -, hi⟩
    · exact hs.streamOk.complete _
    · exact exec_keeps_streamOk hs.streamOk hi
  obtain ⟨c, hc, hd⟩ := runCommand_completes h
  exact hst.inv_of_completed hc hd

theorem sequencerTurn_keeps_inv {s t : State} (hs : s.Inv) (h : sequencerTurnBy exec s = .next t) : t.Inv := by
  unfold sequencerTurnBy at h
  split at h
  · exact runCommand_keeps_inv hs h
  · exact Host.Outcome.next.inj h ▸ hs

theorem PortNext.keeps_inv {s t : State} (hp : PortNext s t) (hr : s.rstN = true) (hs : s.Inv) : t.Inv := by
  obtain ⟨hblocks, henc, hvalid, herr, hbusy, hreset⟩ := hs
  cases hp with
  | status w => exact ⟨hblocks, henc, hvalid, herr, fun hb => by simp [Status.writeOneToClear, hbusy hb], hreset⟩
  | cmd hb w => exact ⟨hblocks, henc, hvalid, herr, fun _ => rfl, by simp [hr]⟩
  | _ => exact ⟨hblocks, henc, hvalid, herr, hbusy, hreset⟩

theorem hostTurn_keeps_inv {s : State} (a : Access) (hs : s.Inv) : (hostTurn a s).Inv := by
  unfold hostTurn
  split
  · next hr => exact (portAccess_next s a).keeps_inv hr hs
  · exact hs

theorem assertReset_keeps_inv {s : State} (hs : s.Inv) : s.assertReset.Inv := by
  obtain ⟨hblocks, henc, hvalid, herr, -, -⟩ := hs
  exact ⟨hblocks, henc, hvalid, herr, nofun, fun _ => rfl⟩

/-- The reset STATUS, with MODE IDLE and BUSY 0, is all the invariant asks of a state after reset (10_state R55). -/
theorem inv_of_status_reset {s : State} (h : s.status = Status.reset) : s.Inv := by
  simp [State.Inv, h, Status.reset]

theorem releaseTurn_keeps_inv {s : State} (hs : s.Inv) : (releaseTurn s).Inv := by
  unfold releaseTurn
  split
  · exact hs
  · exact inv_of_status_reset (releaseReset_status s)

theorem takeTurn_keeps_inv {turn : Turn} {s t : State} (hs : s.Inv) (h : takeTurnBy exec turn s = .next t) : t.Inv := by
  cases turn with
  | sequencer => exact sequencerTurn_keeps_inv hs h
  | host a => exact Host.Outcome.next.inj h ▸ hostTurn_keeps_inv a hs
  | assertReset => exact Host.Outcome.next.inj h ▸ assertReset_keeps_inv hs
  | releaseReset => exact Host.Outcome.next.inj h ▸ releaseTurn_keeps_inv hs

/-! ## Steps along an agenda -/

theorem step_of_agenda_nil {s : State} (h : s.agenda = []) : step s = sequencerTurnBy exec s := by
  simp [step, stepBy, h]

theorem step_of_agenda_cons {s : State} {turn : Turn} {rest : List Turn} (h : s.agenda = turn :: rest) :
    step s = takeTurnBy exec turn (s.withAgenda rest) := by simp [step, stepBy, h]

theorem core_run_succ {s u : State} (k : Nat) (h : step s = .next u) : core.run (k + 1) s = core.run k u := by
  have hstep : core.step s = .next u := h
  simp only [Host.Core.run, hstep]

theorem core_run_one {s u : State} (h : step s = .next u) : core.run 1 s = .next u := core_run_succ 0 h

/-- Settles O59: a step is one turn, and each kind of turn keeps the invariant. -/
theorem stepKeepsInvariant : Obligations.StepKeepsInvariant := by
  intro s t hs h
  cases hag : s.agenda with
  | nil => exact sequencerTurn_keeps_inv hs (step_of_agenda_nil hag ▸ h)
  | cons turn rest =>
    have hs' : (s.withAgenda rest).Inv := hs
    exact takeTurn_keeps_inv hs' (step_of_agenda_cons hag ▸ h)

/-- Settles O58: the invariant asks nothing of a state whose STATUS is the reset one. -/
theorem resetMeetsInvariant : Obligations.ResetMeetsInvariant := inv_of_status_reset rfl

/-! ## An executing command completes -/

/-- s is out of reset and executes the command word w. -/
structure State.Executing (w : Word) (s : State) : Prop where
  rstN : s.rstN = true
  busy : s.status.busy = true
  cmd : s.cmd = w

/-- s has completed the command word w: BUSY = 0, DONE = 1. -/
structure State.HasCompleted (w : Word) (s : State) : Prop where
  busy : s.status.busy = false
  done : s.status.done = true
  cmd : s.cmd = w

theorem sequencerTurn_completes {w : Word} {s : State} (h : s.Executing w) :
    ∃ t, sequencerTurnBy exec s = .next t ∧ t.HasCompleted w := by
  obtain ⟨hr, hb, hw⟩ := h
  obtain ⟨t, ht⟩ := runCommand_next s
  obtain ⟨c, -, -, hdone, hbusy⟩ := runCommand_completes ht
  obtain ⟨-, -, -, hcmd, -⟩ := runCommand_keeps_hostSide ht
  exact ⟨t, (sequencerTurnBy_of_busy exec hr hb).trans ht, hbusy, hdone, hcmd.trans hw⟩

/-- No access starts, stops or replaces the executing command (20 R87). -/
theorem PortNext.executing {w : Word} {s t : State} (hp : PortNext s t) (h : s.Executing w) : t.Executing w := by
  obtain ⟨hr, hb, hw⟩ := h
  cases hp with
  | cmd hb' | slen hb' | flen hb' | block hb' => simp [hb] at hb'
  | _ => exact ⟨hr, hb, hw⟩

theorem hostTurn_executing {w : Word} {s : State} (a : Access) (h : s.Executing w) : (hostTurn a s).Executing w :=
  hostTurn_of_rstN a h.rstN ▸ (portAccess_next s a).executing h

theorem PortNext.agenda {s t : State} (hp : PortNext s t) : t.agenda = s.agenda := by cases hp <;> rfl

theorem hostTurn_agenda (a : Access) (s : State) : (hostTurn a s).agenda = s.agenda := by
  unfold hostTurn
  split
  · exact (portAccess_next s a).agenda
  · rfl

theorem releaseTurn_of_rstN {s : State} (hr : s.rstN = true) : releaseTurn s = s := if_pos hr

/-- The next turn of an executing command, unless it asserts reset, completes it or leaves it executing. -/
theorem step_executing {w : Word} {s : State} {turn : Turn} {rest : List Turn} (h : s.Executing w)
    (hag : s.agenda = turn :: rest) (hturn : turn ≠ .assertReset) :
    ∃ t, step s = .next t ∧ (t.HasCompleted w ∨ t.Executing w ∧ t.agenda = rest) := by
  have hx : (s.withAgenda rest).Executing w := ⟨h.rstN, h.busy, h.cmd⟩
  rw [step_of_agenda_cons hag]
  cases turn with
  | sequencer => exact (sequencerTurn_completes hx).imp fun t ⟨ht, hc⟩ => ⟨ht, .inl hc⟩
  | host a => exact ⟨_, rfl, .inr ⟨hostTurn_executing a hx, hostTurn_agenda a _⟩⟩
  | assertReset => exact absurd rfl hturn
  | releaseReset => exact ⟨s.withAgenda rest, by rw [takeTurnBy_releaseReset, releaseTurn_of_rstN hx.rstN], .inr ⟨hx, rfl⟩⟩

theorem run_completes {w : Word} (turns : List Turn) (hno : Turn.assertReset ∉ turns) :
    ∀ s : State, s.agenda = turns → s.Executing w →
      ∃ k t, k ≤ turns.length + 1 ∧ core.run k s = .next t ∧ t.HasCompleted w := by
  induction turns with
  | nil =>
    intro s hag hx
    obtain ⟨t, ht, hc⟩ := sequencerTurn_completes hx
    exact ⟨1, t, by simp, core_run_one ((step_of_agenda_nil hag).trans ht), hc⟩
  | cons turn rest ih =>
    intro s hag hx
    simp only [List.mem_cons, not_or] at hno
    obtain ⟨hturn, hrest⟩ := hno
    obtain ⟨u, hu, hc | ⟨hx', hag'⟩⟩ := step_executing hx hag (Ne.symm hturn)
    · exact ⟨1, u, by simp, core_run_one hu, hc⟩
    · obtain ⟨k, t, hk, hrun, hc⟩ := ih hrest u hag' hx'
      exact ⟨k + 1, t, by simpa using hk, (core_run_succ k hu).trans hrun, hc⟩

/-- Settles O49, by induction on the turns of the agenda. -/
theorem commandEventuallyCompletes : Obligations.CommandEventuallyCompletes := by
  intro s hr hb hno
  obtain ⟨k, t, hk, hrun, hc⟩ := run_completes s.agenda hno s rfl ⟨hr, hb, rfl⟩
  exact ⟨k, t, hk, hrun, hc.busy, hc.done, hc.cmd⟩

/-! ## The STATUS and CTRL words -/

theorem toNat_append_eq_add {m n : Nat} (x : BitVec m) (y : BitVec n) :
    (x ++ y).toNat = x.toNat * 2 ^ n + y.toNat := by
  rw [BitVec.toNat_append, ← Nat.shiftLeft_add_eq_or_of_lt y.isLt, Nat.shiftLeft_eq]

/-- The STATUS word's value: each field at its lowest bit (10_state R42). -/
theorem toNat_toWord (st : Status) :
    st.toWord.toNat = st.busy.toNat + 2 * st.done.toNat + 4 * st.wovr.toNat + 16 * st.mode.code.toNat +
      256 * st.valid.toNat + 65536 * st.err.code.toNat := by
  simp only [Status.toWord, toNat_append_eq_add, BitVec.toNat_ofBool, BitVec.toNat_ofNat]
  omega

/-- The CTRL word holds IE in bit 0 (10_state R41). -/
theorem ctrl_toWord (c : Ctrl) : c.toWord = if c.ie then 1#32 else 0#32 := by
  obtain ⟨ie⟩ := c
  cases ie <;> rfl

theorem portRead_of_specified {s : State} {off : Byte} (h : (windowReg off).unspecifiedWhileBusy = false) :
    s.portRead off = s.returnWord (s.regRead (windowReg off)) := by simp [State.portRead, h]

theorem portWrite_of_writable {s : State} {off : Byte} (h : (windowReg off).writableWhileBusy = true) (w : Word) :
    s.portWrite off w = s.regWrite (windowReg off) w := by simp [State.portWrite, h]

/-- Settles O54: CTRL and STATUS are specified and writable whatever BUSY is, so the port reads and writes their words. -/
theorem statusAndCtrlRegisters : Obligations.StatusAndCtrlRegisters := by
  refine ⟨rfl, rfl, fun s w => ⟨?_, portWrite_of_writable rfl w, ⟨s.status.toWord, portRead_of_specified rfl, ?_⟩,
    portWrite_of_writable rfl w⟩⟩
  · rw [← ctrl_toWord]
    exact portRead_of_specified rfl
  · rw [toNat_toWord]
    cases s.status.mode <;> rfl

/-! ## The port and RK, FB -/

/-- The state with these RK contents and FB. -/
def State.withKeys (s : State) (rk : Vector Block 10) (fb : Block) : State := { s with rk := rk, fb := fb }

theorem regRead_withKeys (s : State) (rk : Vector Block 10) (fb : Block) (r : WindowReg) :
    (s.withKeys rk fb).regRead r = s.regRead r := by cases r <;> rfl

theorem regWrite_withKeys (s : State) (rk : Vector Block 10) (fb : Block) (r : WindowReg) (w : Word) :
    (s.withKeys rk fb).regWrite r w = (s.regWrite r w).withKeys rk fb := by cases r <;> rfl

theorem portRead_withKeys (s : State) (rk : Vector Block 10) (fb : Block) (off : Byte) :
    (s.withKeys rk fb).portRead off = (s.portRead off).withKeys rk fb := by
  unfold State.portRead
  rw [regRead_withKeys, apply_ite (State.withKeys · rk fb)]
  rfl

theorem portWrite_withKeys (s : State) (rk : Vector Block 10) (fb : Block) (off : Byte) (w : Word) :
    (s.withKeys rk fb).portWrite off w = (s.portWrite off w).withKeys rk fb := by
  unfold State.portWrite
  rw [regWrite_withKeys, apply_ite (State.withKeys · rk fb)]
  rfl

/-- Settles O55: no window register is RK or FB, and every access acts on one window register. -/
theorem scheduleNotHostMapped : Obligations.ScheduleNotHostMapped := by
  intro s rk fb a
  cases a with
  | read off => exact portRead_withKeys s rk fb off
  | write off w => exact portWrite_withKeys s rk fb off w

end Sys2Proof.Machine

/-! SUPPORT. Proofs of the statements of 20_memory: which register an offset names, what an access of the idle and of the
busy core does, and that a command's results do not depend on what a busy core's port can change. -/

namespace Sys2Proof.Machine

/-! ## What the port changes while a command executes, and the command -/

/-- What an access can change while BUSY = 1 (20 R87): CTRL, DONE and WOVR, and the model's own fields. -/
structure PortSide where
  ctrl : Ctrl
  done : Bool
  wovr : Bool
  agenda : List Turn
  reads : List Word
  draws : Nat

/-- The state with this port side. -/
def State.withPortSide (s : State) (p : PortSide) : State :=
  { s with
    ctrl := p.ctrl, agenda := p.agenda, reads := p.reads, draws := p.draws
    status := { s.status with done := p.done, wovr := p.wovr } }

/-- The port side a completion leaves: DONE <- 1 (30 R126). -/
def PortSide.completed (p : PortSide) : PortSide := { p with done := true }

/-- The next state changed by f. -/
def mapNext (f : State → State) : Result → Result
  | .next s => .next (f s)
  | .fault e => .fault e
  | .refused e => .refused e

section
variable {s : State} {p : PortSide} {k k' : Result} (hk : k' = mapNext (·.withPortSide p.completed) k)
include hk

theorem withBlockLen_withPortSide {len : Byte} :
    withBlockLen len (s.withPortSide p) k' = mapNext (·.withPortSide p.completed) (withBlockLen len s k) := by
  unfold withBlockLen
  split
  · exact hk
  · rfl

theorem withKeyLen_withPortSide {len : Byte} :
    withKeyLen len (s.withPortSide p) k' = mapNext (·.withPortSide p.completed) (withKeyLen len s k) := by
  unfold withKeyLen
  split
  · exact hk
  · rfl

theorem withMode_withPortSide {m : Mode} :
    withMode m (s.withPortSide p) k' = mapNext (·.withPortSide p.completed) (withMode m s k) := by
  unfold withMode
  rw [apply_ite (mapNext (·.withPortSide p.completed)), ← hk]
  rfl

theorem withFrame_withPortSide {flen : Dword} :
    withFrame flen (s.withPortSide p) k' = mapNext (·.withPortSide p.completed) (withFrame flen s k) := by
  unfold withFrame
  split
  · rfl
  · split
    · rfl
    · exact hk

end

theorem withRoundKey_withPortSide {s : State} {p : PortSide} {imm : Imm} {k k' : RKReg → Result}
    (hk : ∀ i, k' i = mapNext (·.withPortSide p.completed) (k i)) :
    withRoundKey imm (s.withPortSide p) k' = mapNext (·.withPortSide p.completed) (withRoundKey imm s k) := by
  unfold withRoundKey
  split
  · exact hk _
  · rfl

/-- A command neither reads the port side nor writes it, but for DONE at its completion. -/
theorem exec_withPortSide (i : Instr) (s : State) (p : PortSide) :
    exec i (s.withPortSide p) = mapNext (·.withPortSide p.completed) (exec i s) := by
  cases i with
  | nop => rfl
  | rcon d m => rfl
  | cbcAbort => rfl
  | rkst d m =>
    unfold exec execRkst
    exact withRoundKey_withPortSide fun _ => rfl
  | round l d s1 m =>
    unfold exec execRound execRoundWith
    exact withRoundKey_withPortSide fun _ => withBlockLen_withPortSide (by rfl)
  | iround l d s1 m =>
    unfold exec execIround execIroundWith
    exact withRoundKey_withPortSide fun _ => withBlockLen_withPortSide (by rfl)
  | rkld l s1 m =>
    unfold exec execRkld
    exact withRoundKey_withPortSide fun _ => withBlockLen_withPortSide (by rfl)
  | expand l s1 s2 => exact withKeyLen_withPortSide (by rfl)
  | cbcdStart l s1 => exact withBlockLen_withPortSide (withFrame_withPortSide (by rfl))
  | cbceBlock l d s1 => exact withBlockLen_withPortSide (withMode_withPortSide (by rfl))
  | cbcdBlock l d s1 => exact withBlockLen_withPortSide (withMode_withPortSide (by rfl))
  | _ => exact withBlockLen_withPortSide (by rfl)

theorem runCommand_withPortSide (s : State) (p : PortSide) :
    runCommand (s.withPortSide p) = mapNext (·.withPortSide p.completed) (runCommand s) := by
  have hcmd : (s.withPortSide p).cmd = s.cmd := rfl
  cases hd : decode s.cmd with
  | error e =>
    rw [runCommand, runCommand, runCommandBy_of_error exec (hcmd ▸ hd), runCommandBy_of_error exec hd]
    rfl
  | ok i =>
    rw [runCommand, runCommand, runCommandBy_of_ok exec (hcmd ▸ hd), runCommandBy_of_ok exec hd]
    exact exec_withPortSide i s p

/-- An access of a busy core changes its port side only (20 R87). -/
theorem PortNext.portSide {s t : State} (hp : PortNext s t) (hb : s.status.busy = true) :
    ∃ p, t = s.withPortSide p ∧ p.agenda = s.agenda := by
  cases hp with
  | cmd hb' | slen hb' | flen hb' | block hb' => simp [hb] at hb'
  | _ => exact ⟨⟨_, _, _, _, _, _⟩, rfl, rfl⟩

/-- A step that is a host's access to an executing core. -/
theorem step_host_of_busy {s : State} {a : Access} {rest : List Turn} (hr : s.rstN = true) (hb : s.status.busy = true)
    (hag : s.agenda = .host a :: rest) : ∃ p, step s = .next (s.withPortSide p) ∧ p.agenda = rest := by
  obtain ⟨p, hp, hpag⟩ := (portAccess_next (s.withAgenda rest) a).portSide hb
  refine ⟨p, ?_, hpag⟩
  rw [step_of_agenda_cons hag, takeTurnBy_host, hostTurn_of_rstN a (s := s.withAgenda rest) hr, hp]
  rfl

/-- Host accesses, then the sequencer's turn: the command completes over a state changed in its port side only. -/
theorem run_accesses (accesses : List Access) (rest : List Turn) : ∀ s : State, s.rstN = true → s.status.busy = true →
    s.agenda = accesses.map .host ++ .sequencer :: rest →
    ∃ p t, core.run (accesses.length + 1) s = .next t ∧ runCommand (s.withPortSide p) = .next t ∧ p.agenda = rest := by
  induction accesses with
  | nil =>
    intro s hr hb hag
    obtain ⟨t, ht⟩ := runCommand_next (s.withAgenda rest)
    have hstep : step s = .next t := by
      rw [step_of_agenda_cons hag, takeTurnBy_sequencer, sequencerTurnBy_of_busy exec (s := s.withAgenda rest) hr hb]
      exact ht
    exact ⟨⟨s.ctrl, s.status.done, s.status.wovr, rest, s.reads, s.draws⟩, t, core_run_one hstep, ht, rfl⟩
  | cons a accesses ih =>
    intro s hr hb hag
    obtain ⟨p, hstep, hpag⟩ := step_host_of_busy hr hb hag
    obtain ⟨q, t, hrun, hcmd, hqag⟩ := ih (s.withPortSide p) hr hb hpag
    exact ⟨q, t, (core_run_succ _ hstep).trans hrun, hcmd, hqag⟩

/-- Settles O48: the accesses change the port side only, and the command's results do not depend on it. -/
theorem hostCannotDisturbCommand : Obligations.HostCannotDisturbCommand := by
  intro s accesses rest hr hb hag
  obtain ⟨p, t, hrun, ht, hpag⟩ := run_accesses accesses rest s hr hb hag
  obtain ⟨u, hu⟩ := runCommand_next s
  obtain ⟨c, -, -, -, hbusy⟩ := runCommand_completes hu
  have htu : t = u.withPortSide p.completed := by
    rw [runCommand_withPortSide, hu] at ht
    exact (Host.Outcome.next.inj ht).symm
  subst htu
  exact ⟨_, u, hrun, hu, rfl, rfl, rfl, rfl, rfl, rfl, rfl, rfl, rfl, rfl, rfl, rfl, hbusy, hpag⟩

/-! ## Which register an offset names (20 R82 to R84) -/

/-- From 0x30 on, the window holds V0..V7 at 0x40..0xBF and reserved words elsewhere. -/
theorem windowRegOfIndex_of_ge {n : Nat} (h : 12 ≤ n) :
    windowRegOfIndex n =
      if 16 ≤ n ∧ n < 48 then
        .v ⟨(n - 16) / 4 % 8, Nat.mod_lt _ (by decide)⟩ ⟨(n - 16) % 4, Nat.mod_lt _ (by decide)⟩
      else .reserved := by
  obtain ⟨m, rfl⟩ := Nat.exists_eq_add_of_le' h
  rfl

theorem windowRegOfIndex_reserved {n : Nat} (h : 12 ≤ n ∧ n < 16 ∨ 48 ≤ n) : windowRegOfIndex n = .reserved := by
  rw [windowRegOfIndex_of_ge (by omega), if_neg (by omega)]

theorem windowReg_reserved {off : Byte} (h : (0x30 ≤ off.toNat ∧ off.toNat < 0x40) ∨ 0xC0 ≤ off.toNat) :
    windowReg off = .reserved := windowRegOfIndex_reserved (by omega)

theorem toNat_offV (n : VReg) (k : Fin 4) : (offV n k).toNat = 0x40 + 16 * n.val + 4 * k.val := by
  rw [offV, BitVec.toNat_ofNat]
  omega

theorem windowReg_offV (n : VReg) (k : Fin 4) : windowReg (offV n k) = .v n k := by
  rw [windowReg, toNat_offV, windowRegOfIndex_of_ge (by omega), if_pos (by omega)]
  congr 1 <;> (apply Fin.ext; dsimp only; omega)

/-- AND 0xFC clears the offset's low two bits, which the word index does not see (20 R82). -/
theorem windowReg_and (off : Byte) : windowReg (off &&& 0xFC#8) = windowReg off := by
  have hoff := off.isLt
  have hdiv : (off &&& 0xFC#8).toNat / 4 = off.toNat / 4 := by
    calc (off.toNat &&& 252) / 2 ^ 2 = off.toNat / 2 ^ 2 &&& (2 ^ 6 - 1) := by
          simp only [← Nat.shiftRight_eq_div_pow, Nat.shiftRight_and_distrib]
          rfl
      _ = off.toNat / 2 ^ 2 := by
          rw [Nat.and_two_pow_sub_one_eq_mod]
          omega
  rw [windowReg, hdiv, windowReg]

/-- REMAIN, NBLK and the words of V are the registers R87 leaves unspecified to a read while BUSY = 1. -/
theorem unspecifiedWhileBusy_iff (n : Nat) :
    (windowRegOfIndex n).unspecifiedWhileBusy = true ↔ (8 ≤ n ∧ n < 12) ∨ (16 ≤ n ∧ n < 48) := by
  by_cases h : n < 12
  · interval_cases n <;> simp [windowRegOfIndex, WindowReg.unspecifiedWhileBusy]
  · rw [windowRegOfIndex_of_ge (by omega)]
    split
    · next hv => simp [WindowReg.unspecifiedWhileBusy, hv]
    · next hv =>
      simp only [WindowReg.unspecifiedWhileBusy, Bool.false_eq_true, false_iff]
      omega

/-- CTRL and STATUS are the registers a host write reaches while BUSY = 1 (20 R87). -/
theorem writableWhileBusy_iff (n : Nat) : (windowRegOfIndex n).writableWhileBusy = true ↔ n = 1 ∨ n = 2 := by
  by_cases h : n < 12
  · interval_cases n <;> simp [windowRegOfIndex, WindowReg.writableWhileBusy]
  · rw [windowRegOfIndex_of_ge (by omega)]
    split <;> simp only [WindowReg.writableWhileBusy, Bool.false_eq_true, false_iff] <;> omega

/-! ## Accesses of the idle core -/

theorem portRead_of_idle {s : State} (hb : s.status.busy = false) (off : Byte) :
    s.portRead off = s.returnWord (s.regRead (windowReg off)) := by simp [State.portRead, hb]

theorem portWrite_of_idle {s : State} (hb : s.status.busy = false) (off : Byte) (w : Word) :
    s.portWrite off w = s.regWrite (windowReg off) w := by simp [State.portWrite, hb]

/-- The read-only and the reserved words ignore a write (20 R83, R86). -/
theorem regWrite_of_readOnly (s : State) {n : Nat} (h : n = 0 ∨ (8 ≤ n ∧ n < 16) ∨ 48 ≤ n) (w : Word) :
    s.regWrite (windowRegOfIndex n) w = s := by
  by_cases hn : n < 12
  · obtain rfl | rfl | rfl | rfl | rfl : n = 0 ∨ n = 8 ∨ n = 9 ∨ n = 10 ∨ n = 11 := by omega
    all_goals rfl
  · rw [windowRegOfIndex_reserved (by omega)]
    rfl

/-- Settles O50: an access sees its offset only through the register it names, and a read of the idle core returns that
register's word. -/
theorem windowReads : Obligations.WindowReads := by
  refine ⟨fun s off w => ?_, fun s hb => ?_⟩
  · simp only [State.portAccess, State.portRead, State.portWrite, windowReg_and, and_self]
  · have read (off : Byte) : s.portRead off = { s with reads := s.regRead (windowReg off) :: s.reads } :=
      portRead_of_idle hb off
    simp only [read]
    refine ⟨rfl, rfl, rfl, rfl, rfl, rfl, rfl, rfl, rfl, rfl, fun off hoff => ?_, fun off => ⟨_, rfl⟩⟩
    rw [windowReg_reserved hoff]
    rfl

/-- Settles O51: a write to the idle core is the named register's write. -/
theorem windowWrites : Obligations.WindowWrites := by
  intro s w hb
  simp only [portWrite_of_idle hb]
  exact ⟨fun off hoff => regWrite_of_readOnly s (by omega) w, rfl, rfl, rfl, rfl⟩

/-! ## The words of V (20 R85) -/

theorem toNat_blockWord (b : Block) (k : Fin 4) :
    (blockWord b k).toNat = (blockByte b (4 * k.val)).toNat * 2 ^ 24 + (blockByte b (4 * k.val + 1)).toNat * 2 ^ 16 +
      (blockByte b (4 * k.val + 2)).toNat * 2 ^ 8 + (blockByte b (4 * k.val + 3)).toNat := by
  simp only [blockWord, toNat_append_eq_add]
  omega

/-- Settles O52: the access at `offV n k` reads word k of V[n], or replaces it in V[n] alone. -/
theorem blockRegisterWords : Obligations.BlockRegisterWords := by
  intro s n k w hb
  have hread : s.portRead (offV n k) = s.returnWord (blockWord (s.readV n) k) := by
    rw [portRead_of_idle hb, windowReg_offV]
    rfl
  have hwrite : s.portWrite (offV n k) w = s.writeV n (setBlockWord (s.readV n) k w) := by
    rw [portWrite_of_idle hb, windowReg_offV]
    rfl
  rw [hread, hwrite]
  refine ⟨⟨_, rfl, toNat_blockWord _ k⟩, fun j hj => ?_, fun m hm => readV_writeV_ne s _ hm, fun _ => rfl, ?_, ?_, rfl⟩
  · rw [readV_writeV_same]
    exact blockByte_setBlockWord _ k w hj
  · simp [KeepsStream]
  · simp [KeepsHostSide]

/-! ## Accesses of the busy core -/

theorem portRead_of_unspecified {s : State} {off : Byte} (hb : s.status.busy = true)
    (h : (windowReg off).unspecifiedWhileBusy = true) : s.portRead off = s.returnDraw := by simp [State.portRead, hb, h]

theorem portWrite_of_not_writable {s : State} {off : Byte} (hb : s.status.busy = true)
    (h : (windowReg off).writableWhileBusy = false) (w : Word) : s.portWrite off w = s.overrun := by
  simp [State.portWrite, hb, h]

/-- Settles O53: the two classes of registers of R87, by their offsets. -/
theorem accessWhileBusy : Obligations.AccessWhileBusy := by
  intro s off w hb
  have hoff := off.isLt
  refine ⟨fun h => portRead_of_specified ?_, fun h => portRead_of_unspecified hb ?_, fun h => ?_, fun h => ?_,
    fun h1 h2 => portWrite_of_not_writable hb ?_ w⟩
  · rw [← Bool.not_eq_true, windowReg, unspecifiedWhileBusy_iff]
    omega
  · rw [windowReg, unspecifiedWhileBusy_iff]
    omega
  · have hreg : windowReg off = .ctrl := by rw [windowReg, h]; rfl
    rw [portWrite_of_writable (by rw [hreg]; rfl), hreg]
    rfl
  · have hreg : windowReg off = .status := by rw [windowReg, h]; rfl
    rw [portWrite_of_writable (by rw [hreg]; rfl), hreg]
    rfl
  · rw [← Bool.not_eq_true, windowReg, writableWhileBusy_iff]
    omega

end Sys2Proof.Machine

/-! SUPPORT. Proofs of the statements of 30_encoding: the fields of the command word, the words that decode and to what, the
words that do not, the opcode table's rows, and what a step does with the word in CMD. -/

namespace Sys2Proof

open Machine

/-! ## The command word by its fields (R111) -/

section Fields
variable (w : Word)

theorem toNat_fieldOp : (fieldOp w).toNat = w.toNat % 2 ^ 8 := by simp [fieldOp]
theorem toNat_fieldLen : (fieldLen w).toNat = w.toNat / 2 ^ 8 % 2 ^ 8 := by simp [fieldLen, Nat.shiftRight_eq_div_pow]
theorem val_fieldD : (fieldD w).val = w.toNat / 2 ^ 16 % 8 := by simp [fieldD, regOfField, Nat.shiftRight_eq_div_pow]
theorem val_fieldS1 : (fieldS1 w).val = w.toNat / 2 ^ 20 % 8 := by simp [fieldS1, regOfField, Nat.shiftRight_eq_div_pow]
theorem val_fieldS2 : (fieldS2 w).val = w.toNat / 2 ^ 24 % 8 := by simp [fieldS2, regOfField, Nat.shiftRight_eq_div_pow]

/-- IMM is the topmost field, so nothing stands above it. -/
theorem toNat_fieldImm : (fieldImm w).toNat = w.toNat / 2 ^ 27 := by
  have hw := w.isLt
  rw [fieldImm, BitVec.extractLsb'_toNat, Nat.shiftRight_eq_div_pow]
  omega

/-- Settles O5: the value of each field, as the remainder of a quotient of the word's. -/
theorem commandWordFields : Obligations.CommandWordFields := fun w =>
  ⟨toNat_fieldOp w, toNat_fieldLen w, val_fieldD w, val_fieldS1 w, val_fieldS2 w, toNat_fieldImm w⟩

theorem reservedBitSet_eq_false_iff : reservedBitSet w = false ↔ w.getLsbD 19 = false ∧ w.getLsbD 23 = false :=
  Bool.or_eq_false_iff

theorem getLsbD_eq_false_iff (k : Nat) : w.getLsbD k = false ↔ w.toNat / 2 ^ k % 2 = 0 := by
  simp [BitVec.getLsbD, Nat.testBit_eq_decide_div_mod_eq]

end Fields

theorem toNat_packFields (op len : Byte) (d s1 s2 : VReg) (imm : Imm) :
    (packFields op len d s1 s2 imm).toNat = op.toNat + 2 ^ 8 * len.toNat + 2 ^ 16 * d.val + 2 ^ 20 * s1.val +
      2 ^ 24 * s2.val + 2 ^ 27 * imm.toNat := by
  simp only [packFields, fieldOfReg, toNat_append_eq_add, BitVec.toNat_ofNat]
  omega

/-- A word whose reserved bits are 0 is its six fields. -/
theorem packFields_fields {w : Word} (h : reservedBitSet w = false) :
    packFields (fieldOp w) (fieldLen w) (fieldD w) (fieldS1 w) (fieldS2 w) (fieldImm w) = w := by
  have hw := w.isLt
  rw [reservedBitSet_eq_false_iff, getLsbD_eq_false_iff, getLsbD_eq_false_iff] at h
  apply BitVec.eq_of_toNat_eq
  rw [toNat_packFields, toNat_fieldOp, toNat_fieldLen, val_fieldD, val_fieldS1, val_fieldS2, toNat_fieldImm]
  omega

/-! ## The words that decode (R113 to R118, R120) -/

/-- The command of i with its fields taken from w. -/
def Instr.withFields (w : Word) : Instr → Instr
  | .nop => .nop
  | .gfmul .. => .gfmul (fieldLen w) (fieldD w) (fieldS1 w) (fieldS2 w)
  | .sub .. => .sub (fieldLen w) (fieldD w) (fieldS1 w)
  | .isub .. => .isub (fieldLen w) (fieldD w) (fieldS1 w)
  | .rstep .. => .rstep (fieldLen w) (fieldD w) (fieldS1 w)
  | .irstep .. => .irstep (fieldLen w) (fieldD w) (fieldS1 w)
  | .lin .. => .lin (fieldLen w) (fieldD w) (fieldS1 w)
  | .ilin .. => .ilin (fieldLen w) (fieldD w) (fieldS1 w)
  | .xor .. => .xor (fieldLen w) (fieldD w) (fieldS1 w) (fieldS2 w)
  | .round .. => .round (fieldLen w) (fieldD w) (fieldS1 w) (fieldImm w)
  | .iround .. => .iround (fieldLen w) (fieldD w) (fieldS1 w) (fieldImm w)
  | .enc .. => .enc (fieldLen w) (fieldD w) (fieldS1 w)
  | .dec .. => .dec (fieldLen w) (fieldD w) (fieldS1 w)
  | .rkld .. => .rkld (fieldLen w) (fieldS1 w) (fieldImm w)
  | .rkst .. => .rkst (fieldD w) (fieldImm w)
  | .rcon .. => .rcon (fieldD w) (fieldImm w)
  | .feistel .. => .feistel (fieldLen w) (fieldD w) (fieldS1 w) (fieldS2 w) (fieldImm w)
  | .expand .. => .expand (fieldLen w) (fieldS1 w) (fieldS2 w)
  | .cbceStart .. => .cbceStart (fieldLen w) (fieldS1 w)
  | .cbceBlock .. => .cbceBlock (fieldLen w) (fieldD w) (fieldS1 w)
  | .cbcdStart .. => .cbcdStart (fieldLen w) (fieldS1 w)
  | .cbcdBlock .. => .cbcdBlock (fieldLen w) (fieldD w) (fieldS1 w)
  | .cbcAbort => .cbcAbort

@[simp] theorem opcode_withFields (w : Word) (i : Instr) : (i.withFields w).opcode = i.opcode := by cases i <;> rfl

/-- IMM <= 9 on the round-key commands is all that well-formedness asks of the fields (R117). -/
theorem wellFormed_withFields_iff (w : Word) (i : Instr) :
    (i.withFields w).wellFormed = true ↔ (i.opcode ∈ roundKeyOpcodes → (fieldImm w).toNat ≤ 9) := by
  cases i <;> simp [Instr.withFields, Instr.wellFormed, Instr.opcode, roundKeyOpcodes]

/-- No command's opcode is reserved (R115). -/
theorem not_reservedOpcode_opcode (i : Instr) : ¬ ReservedOpcode i.opcode := by
  cases i <;> simp [ReservedOpcode, Instr.opcode]

@[simp] theorem withFields_withFields (w : Word) (i : Instr) : (i.withFields w).withFields w = i.withFields w := by
  cases i <;> rfl

/-- The opcode selects the command, whose fields the word gives; the check of R117 is that command's well-formedness. -/
theorem decodeOpcode_of_opcode {w : Word} {i : Instr} (hop : fieldOp w = i.opcode) :
    decodeOpcode w = if (i.withFields w).wellFormed then .ok (i.withFields w) else .error .roundKeyIndex := by
  have check (j : Instr) :
      checkRoundKeyIndex w j = if (fieldImm w).toNat ≤ 9 then .ok j else .error .roundKeyIndex := by
    simp only [checkRoundKeyIndex, gt_iff_lt, ← not_le, ite_not]
  cases i <;> simp [decodeOpcode, hop, Instr.opcode, Instr.withFields, Instr.wellFormed, check]

/-- One instruction of each command, in the opcode table's order. -/
def zeroInstrs : List Instr :=
  [.nop, .gfmul 0 0 0 0, .sub 0 0 0, .isub 0 0 0, .rstep 0 0 0, .irstep 0 0 0, .lin 0 0 0, .ilin 0 0 0, .xor 0 0 0 0,
    .round 0 0 0 0, .iround 0 0 0 0, .enc 0 0 0, .dec 0 0 0, .rkld 0 0 0, .rkst 0 0, .rcon 0 0, .feistel 0 0 0 0 0,
    .expand 0 0 0, .cbceStart 0 0, .cbceBlock 0 0 0, .cbcdStart 0 0, .cbcdBlock 0 0 0, .cbcAbort]

/-- An opcode is a command's or reserved (R114, R115), by the 256 values. -/
theorem reservedOpcode_or_command : ∀ op : Byte, ReservedOpcode op ∨ ∃ i ∈ zeroInstrs, op = i.opcode := by
  unfold ReservedOpcode
  decide

theorem decodeOpcode_of_reserved {w : Word} (h : ReservedOpcode (fieldOp w)) :
    decodeOpcode w = .error .reservedOpcode := by
  unfold ReservedOpcode at h
  unfold decodeOpcode
  split
  case h_24 => rfl
  all_goals omega

theorem decode_of_reservedBit {w : Word} (h : reservedBitSet w = true) : decode w = .error .reservedBit := if_pos h

theorem decode_of_not_reservedBit {w : Word} (h : reservedBitSet w = false) : decode w = decodeOpcode w := by
  simp [decode, h]

/-- What the decoder gives (R120): the reserved bits are 0, OP is the instruction's, and its fields are the word's. -/
theorem decode_eq_ok_iff {w : Word} {i : Instr} :
    decode w = .ok i ↔
      reservedBitSet w = false ∧ fieldOp w = i.opcode ∧ i.wellFormed = true ∧ i.withFields w = i := by
  constructor
  · intro h
    cases hb : reservedBitSet w with
    | true => simp [decode_of_reservedBit hb] at h
    | false =>
      rw [decode_of_not_reservedBit hb] at h
      obtain hres | ⟨j, -, hj⟩ := reservedOpcode_or_command (fieldOp w)
      · simp [decodeOpcode_of_reserved hres] at h
      · rw [decodeOpcode_of_opcode hj] at h
        split at h
        · next hwf =>
          obtain rfl := Except.ok.inj h
          exact ⟨rfl, by rw [opcode_withFields, hj], hwf, withFields_withFields w j⟩
        · cases h
  · rintro ⟨hb, hop, hwf, hfields⟩
    rw [decode_of_not_reservedBit hb, decodeOpcode_of_opcode hop, hfields, if_pos hwf]

theorem fieldOp_encode (i : Instr) : fieldOp (encode i) = i.opcode := by cases i <;> exact fieldOp_packFields ..

theorem reservedBitSet_encode (i : Instr) : reservedBitSet (encode i) = false := by
  cases i <;> exact reservedBitSet_packFields ..

/-- The assembled word holds every field its command uses. -/
theorem withFields_encode (i : Instr) : i.withFields (encode i) = i := by cases i <;> simp [encode, Instr.withFields]

/-- Settles O1: the assembled word holds the opcode and the fields that the decoder asks for. -/
theorem decodeOfEncode : Obligations.DecodeOfEncode := fun i hwf =>
  decode_eq_ok_iff.mpr ⟨reservedBitSet_encode i, fieldOp_encode i, hwf, withFields_encode i⟩

/-! ## The bits a command uses (R118) -/

/-! The masks' fields are literals, which `BitVec.and_allOnes` does not recognise. -/

theorem byte_and_ones (x : Byte) : x &&& 0xFF#8 = x := BitVec.and_allOnes
theorem reg_and_ones (x : BitVec 3) : x &&& 7#3 = x := BitVec.and_allOnes
theorem imm_and_ones (x : Imm) : x &&& 31#5 = x := BitVec.and_allOnes

theorem regOfField_zero : regOfField 0#3 = 0 := rfl

theorem reservedBitSet_and_usedBits (w : Word) (i : Instr) : reservedBitSet (w &&& usedBits i) = false := by
  cases i <;> simp [reservedBitSet, usedBits]

/-- Every command uses OP. -/
theorem fieldOp_and_usedBits (w : Word) (i : Instr) : fieldOp (w &&& usedBits i) = fieldOp w := by
  have hop : fieldOp (usedBits i) = 0xFF#8 := by cases i <;> simp only [usedBits] <;> decide
  calc fieldOp (w &&& usedBits i) = fieldOp w &&& fieldOp (usedBits i) := BitVec.extractLsb'_and
    _ = fieldOp w := by rw [hop, byte_and_ones]

/-- A field outside `usedBits` is 0 in both words, and the others are w's. -/
theorem encode_withFields {w : Word} {i : Instr} (hop : fieldOp w = i.opcode) :
    encode (i.withFields w) = w &&& usedBits i := by
  rw [← packFields_fields (reservedBitSet_and_usedBits w i), fieldOp_and_usedBits, hop]
  cases i <;>
    simp [encode, Instr.withFields, Instr.opcode, usedBits, fieldLen, fieldD, fieldS1, fieldS2, fieldImm,
      BitVec.extractLsb'_and, byte_and_ones, reg_and_ones, imm_and_ones, regOfField_zero]

/-- Settles O2: the decoded instruction's fields are the word's, so its assembled word holds those and no more. -/
theorem unusedFieldsIgnored : Obligations.UnusedFieldsIgnored := by
  intro w i h
  obtain ⟨-, hop, hwf, hfields⟩ := decode_eq_ok_iff.mp h
  exact ⟨hwf, by rw [← encode_withFields hop, hfields]⟩

/-! ## The words that do not decode -/

/-- A command's opcode is turned down only for IMM > 9 on a round-key command (R117). -/
theorem decode_eq_error_of_opcode_iff {w : Word} {i : Instr} (hb : reservedBitSet w = false) (hop : fieldOp w = i.opcode) :
    (∃ e, decode w = .error e) ↔ fieldOp w ∈ roundKeyOpcodes ∧ 9 < (fieldImm w).toNat := by
  have hwf := wellFormed_withFields_iff w i
  rw [decode_of_not_reservedBit hb, decodeOpcode_of_opcode hop, ← not_le, hop, ← Classical.not_imp, ← hwf]
  split
  · next h => simp [h]
  · next h => simp [h]

/-- Settles O3: the decoder's checks of R120, in its order. -/
theorem rejectedWords : Obligations.RejectedWords := by
  intro w
  cases hb : reservedBitSet w with
  | true =>
    have hbits : w.getLsbD 19 = true ∨ w.getLsbD 23 = true := by simpa [reservedBitSet] using hb
    simp only [decode_of_reservedBit hb, ← or_assoc, hbits, true_or, iff_true]
    exact ⟨_, rfl⟩
  | false =>
    obtain ⟨h19, h23⟩ := (reservedBitSet_eq_false_iff w).mp hb
    obtain hres | ⟨i, -, hop⟩ := reservedOpcode_or_command (fieldOp w)
    · simp [decode_of_not_reservedBit hb, decodeOpcode_of_reserved hres, hres]
    · have hnres : ¬ ReservedOpcode (fieldOp w) := hop ▸ not_reservedOpcode_opcode i
      simp only [decode_eq_error_of_opcode_iff hb hop, h19, h23, hnres, Bool.false_eq_true, false_or]

/-! ## The opcode table (R124) -/

@[simp] theorem mnemonic_withFields (w : Word) (i : Instr) : (i.withFields w).mnemonic = i.mnemonic := by
  cases i <;> rfl

theorem fieldOp_and_maskWithoutLen (w : Word) : fieldOp (w &&& maskWithoutLen) = fieldOp w := by
  simp [fieldOp, maskWithoutLen, BitVec.extractLsb'_and, byte_and_ones]

theorem reservedBitSet_and_maskWithoutLen (w : Word) : reservedBitSet (w &&& maskWithoutLen) = reservedBitSet w := by
  simp [reservedBitSet, maskWithoutLen]

/-- Every row's mask covers OP and the reserved bits. -/
theorem opcodeRow_mask : ∀ row ∈ opcodeRows, row.mask &&& maskWithoutLen = maskWithoutLen := by decide

theorem opcodeRow_reservedBitSet : ∀ row ∈ opcodeRows, reservedBitSet row.pattern = false := by decide

/-- Every row is a command's, by its opcode and its name. -/
theorem opcodeRow_command :
    ∀ row ∈ opcodeRows, ∃ i ∈ zeroInstrs, fieldOp row.pattern = i.opcode ∧ i.mnemonic = row.mnemonic := by decide

theorem opcodeRows_opcode_nodup : (opcodeRows.map fun row => fieldOp row.pattern).Nodup := by decide

/-- A word that matches a row has the row's opcode, and its reserved bits 0. -/
theorem fields_of_matches_row {row : OpcodeRow} (hrow : row ∈ opcodeRows) {w : Word} (hw : w &&& row.mask = row.pattern) :
    fieldOp w = fieldOp row.pattern ∧ reservedBitSet w = false := by
  have h : w &&& maskWithoutLen = row.pattern &&& maskWithoutLen := by
    rw [← hw, BitVec.and_assoc, opcodeRow_mask row hrow]
  constructor
  · rw [← fieldOp_and_maskWithoutLen, h, fieldOp_and_maskWithoutLen]
  · rw [← reservedBitSet_and_maskWithoutLen, h, reservedBitSet_and_maskWithoutLen, opcodeRow_reservedBitSet row hrow]

/-- Settles O4: a match fixes the opcode, the opcode fixes the command, and no two rows have one opcode. -/
theorem opcodeTableRows : Obligations.OpcodeTableRows := by
  intro row hrow w hw himm
  obtain ⟨hop, hb⟩ := fields_of_matches_row hrow hw
  obtain ⟨i, -, hi, hname⟩ := opcodeRow_command row hrow
  have hopi : fieldOp w = i.opcode := hop.trans hi
  have hwf : (i.withFields w).wellFormed = true := (wellFormed_withFields_iff w i).mpr (hopi ▸ himm)
  refine ⟨i.withFields w, decode_eq_ok_iff.mpr ⟨hb, by simpa using hopi, hwf, withFields_withFields w i⟩,
    by simpa using hname, fun other hother hmatch => ?_⟩
  have hsame : fieldOp other.pattern = fieldOp row.pattern := (fields_of_matches_row hother hmatch).1.symm.trans hop
  exact List.inj_on_of_nodup_map opcodeRows_opcode_nodup hother hrow hsame

end Sys2Proof

namespace Sys2Proof.Machine

/-! ## The step and the word in CMD (R119, R125, R126) -/

theorem sequencerTurn_next (s : State) : ∃ t, sequencerTurnBy exec s = .next t := by
  unfold sequencerTurnBy
  split
  · exact runCommand_next s
  · exact ⟨s, rfl⟩

theorem takeTurn_next (turn : Turn) (s : State) : ∃ t, takeTurnBy exec turn s = .next t := by
  cases turn with
  | sequencer => exact sequencerTurn_next s
  | _ => exact ⟨_, rfl⟩

theorem step_next (s : State) : ∃ t, step s = .next t := by
  cases hag : s.agenda with
  | nil => exact step_of_agenda_nil hag ▸ sequencerTurn_next s
  | cons turn rest => exact step_of_agenda_cons hag ▸ takeTurn_next turn _

/-- Settles O44: no turn stops, and the sequencer's turn completes an executing command. -/
theorem everyWordCompletes : Obligations.EveryWordCompletes := by
  refine ⟨step_next, fun s rest hr hb hag => ?_⟩
  have hx : (s.withAgenda rest).Executing s.cmd := ⟨hr, hb, rfl⟩
  obtain ⟨t, ht, hdone⟩ := sequencerTurn_completes hx
  refine ⟨t, (step_of_agenda_cons hag).trans ht, hdone.busy, hdone.done, hdone.cmd, fun ⟨e, he⟩ => ?_⟩
  rw [sequencerTurnBy_of_busy exec hx.rstN hx.busy, runCommandBy_of_error exec (hx.cmd ▸ he)] at ht
  exact Host.Outcome.next.inj ht ▸ complete_err _ _

/-- A host's turn out of reset is the port's access (20 R92). -/
theorem step_host {s : State} {a : Access} {rest : List Turn} (hr : s.rstN = true) (hag : s.agenda = .host a :: rest) :
    step s = .next ((s.withAgenda rest).portAccess a) :=
  (step_of_agenda_cons hag).trans (congrArg _ (hostTurn_of_rstN a (s := s.withAgenda rest) hr))

/-- The machine with parameters is the core at the default ROM contents (00_scope R13). -/
theorem coreWith_default {p : Parameters} (hp : p.rom = Config.rom) : coreWith p = core := by
  have hexec : execWith Config.rom = exec := funext₂ fun i s => (exec_eq_execWith i s).symm
  have hstep : stepWith p.rom = step := by
    funext s
    rw [hp, stepWith, hexec, step]
  rw [coreWith, hstep]
  rfl

/-- Settles O42: the turn at hand is the sequencer's or a host's access. -/
theorem stepRunsDecodedCommand : Obligations.StepRunsDecodedCommand := by
  refine ⟨fun s hr => ⟨fun i hb hd => ?_, fun hb => ?_, fun a rest => step_host hr⟩, fun p => coreWith_default⟩
  · have hrun (u : State) (hu : u.Executing s.cmd) : sequencerTurnBy exec u = exec i u :=
      (sequencerTurnBy_of_busy exec hu.rstN hu.busy).trans (runCommandBy_of_ok exec (hu.cmd ▸ hd))
    exact ⟨fun hag => (step_of_agenda_nil hag).trans (hrun s ⟨hr, hb, rfl⟩),
      fun rest hag => (step_of_agenda_cons hag).trans (hrun (s.withAgenda rest) ⟨hr, hb, rfl⟩)⟩
  · exact ⟨fun hag => (step_of_agenda_nil hag).trans (sequencerTurnBy_of_idle exec hb),
      fun rest hag => (step_of_agenda_cons hag).trans (sequencerTurnBy_of_idle exec (s := s.withAgenda rest) hb)⟩

/-- Settles O43: the idle port writes CMD, and the busy port drops the write. -/
theorem commandIssue : Obligations.CommandIssue := by
  intro s rest off w hr hag hoff
  have hreg : windowReg off = .cmd := by rw [windowReg, hoff]; rfl
  have hstep : step s = .next ((s.withAgenda rest).portWrite off w) := step_host hr hag
  rw [hstep]
  refine ⟨fun hb => ?_, fun hb => ?_⟩
  · rw [portWrite_of_idle (s := s.withAgenda rest) hb, hreg]
    rfl
  · rw [portWrite_of_not_writable (s := s.withAgenda rest) hb (by rw [hreg]; rfl)]
    rfl

end Sys2Proof.Machine

/-! SUPPORT. Proofs of the statements of 40_gf_multiply: how a command that writes one V register runs, what it keeps and how
it fails; the multiplier as a product of polynomials; and the field laws. -/

namespace Sys2Proof.Machine

/-! ## A command that writes one V register (30 R113, R120, R126; 60 R276) -/

/-- A completion with an error writes ERR, DONE and BUSY and nothing else. -/
theorem failsWith_complete (s : State) (c : ErrCode) : FailsWith (.next (s.complete c)) c s :=
  ⟨_, rfl, ⟨rfl, rfl, rfl⟩, fun _ => rfl, fun _ => rfl, by simp [KeepsStream], by simp [KeepsHostSide]⟩

theorem failsWith_withBlockLen {len : Byte} (h : len ≠ 16#8) (s : State) (k : Result) :
    FailsWith (withBlockLen len s k) .invalidBlockSize s :=
  (withBlockLen_of_ne h s k).symm ▸ failsWith_complete s .invalidBlockSize

theorem writesOnlyV_complete (s : State) (d : VReg) (b : Block) : WritesOnlyV d s ((s.writeV d b).complete .ok) :=
  ⟨fun _ hn => readV_writeV_ne s b hn, fun _ => rfl, by simp [KeepsStream], by simp [KeepsHostSide], rfl, rfl, rfl⟩

/-- A word with the opcode of a command that takes no round key decodes to that command, its fields the word's, unless a
reserved bit is set. -/
theorem runsAs_withFields (i : Instr) (hi : i.opcode ∉ roundKeyOpcodes) : RunsAs i.opcode fun w => i.withFields w := by
  intro s hop
  constructor
  · intro hbit
    have hb : reservedBitSet s.cmd = true := by simpa [reservedBitSet] using hbit
    rw [runCommand, runCommandBy_of_error exec (decode_of_reservedBit hb)]
    exact failsWith_complete s .illegalCommand
  · intro h19 h23
    have hb := (reservedBitSet_eq_false_iff s.cmd).mpr ⟨h19, h23⟩
    have hwf := (wellFormed_withFields_iff s.cmd i).mpr fun hmem => absurd hmem hi
    refine runCommandBy_of_ok exec (decode_eq_ok_iff.mpr ⟨hb, ?_, hwf, withFields_withFields s.cmd i⟩)
    rw [opcode_withFields, hop]

theorem exec_gfmul (len : Byte) (d s1 s2 : VReg) (s : State) :
    exec (.gfmul len d s1 s2) s =
      withBlockLen len s (.next ((s.writeV d (gfmulLanes (s.readV s1) (s.readV s2))).complete .ok)) := rfl

/-- Settles O7: the LEN check guards one write of V[D], whose byte j is the product of the sources' bytes j. -/
theorem gfmulCommand : Obligations.GfmulCommand := by
  refine ⟨runsAs_withFields (.gfmul 0 0 0 0) (by decide), fun s len d s1 s2 => ⟨fun hlen => ?_, ?_⟩⟩
  · rw [exec_gfmul]
    exact failsWith_withBlockLen hlen s _
  · rw [exec_gfmul, withBlockLen_of_eq rfl]
    refine ⟨_, rfl, writesOnlyV_complete s d _, fun j hj => ?_⟩
    rw [readV_complete, readV_writeV_same, blockByte_gfmulLanes _ _ hj]

/-! ## The multiplier as a product of polynomials (R150, R151) -/

/-- The last iteration adds a * x^n if bit n of b is set. -/
theorem gfmulLoop_succ_last (n : Nat) (a b : Byte) :
    gfmulLoop (n + 1) a b 0 = gfmulLoop n a b 0 ^^^ (if b.getLsbD n then gfShift^[n] a else 0) := by
  induction n generalizing a b with
  | zero => simp [gfmulLoop]
  | succ n ih =>
    rw [gfmulLoop_succ, ih, gfmulLoop_succ n, BitVec.getLsbD_ushiftRight, Nat.add_comm 1 n, Function.iterate_succ_apply,
      BitVec.xor_assoc]

/-- Long division is additive in the dividend. -/
theorem polyRemainder_xor (n : Nat) (p q : BitVec 16) :
    polyRemainder n (p ^^^ q) = polyRemainder n p ^^^ polyRemainder n q := by
  induction n generalizing p q with
  | zero => rfl
  | succ n ih =>
    simp only [polyRemainder, ← ih, BitVec.getLsbD_xor]
    generalize 0x1C3#16 <<< n = m
    have cancel : p ^^^ m ^^^ (q ^^^ m) = p ^^^ q := by
      rw [BitVec.xor_comm q m, BitVec.xor_assoc, ← BitVec.xor_assoc m m q, BitVec.xor_self, BitVec.zero_xor]
    congr 1
    cases p.getLsbD (n + 8) <;> cases q.getLsbD (n + 8) <;> simp [cancel]
    · ac_rfl
    · ac_rfl

theorem polyRemainder_zero (n : Nat) : polyRemainder n 0 = 0 :=
  calc polyRemainder n (0 ^^^ 0) = polyRemainder n 0 ^^^ polyRemainder n 0 := polyRemainder_xor n 0 0
    _ = 0 := BitVec.xor_self

/-- The multiplier's shift is x * a with x^8 reduced by 0x1C3, by the 256 bytes. -/
theorem gfShift_setWidth : ∀ a : Byte,
    (gfShift a).setWidth 16 = if a.getLsbD 7 then a.setWidth 16 <<< 1 ^^^ 0x1C3#16 else a.setWidth 16 <<< 1 := by
  decide

/-- The division's step at the leading term of a * x^(n+1) is the multiplier's shift. -/
theorem polyRemainder_succ_shift {n : Nat} (hn : n < 8) (a : Byte) :
    polyRemainder (n + 1) (a.setWidth 16 <<< (n + 1)) = polyRemainder n ((gfShift a).setWidth 16 <<< n) := by
  have hbit : (a.setWidth 16 <<< (n + 1)).getLsbD (n + 8) = a.getLsbD 7 := by
    have h7 : n + 8 - (n + 1) = 7 := by omega
    have hlt : n + 8 < 16 := by omega
    simp [h7, hlt]
  rw [polyRemainder, hbit, gfShift_setWidth, Nat.add_comm n 1, BitVec.shiftLeft_add]
  split
  · rw [BitVec.shiftLeft_xor_distrib]
  · rfl

/-- The remainder of a * x^i: the division's steps above x^(i+8) change nothing, and each of the others is a shift. -/
theorem polyRemainder_shift {n : Nat} (hn : n ≤ 8) (a : Byte) {i : Nat} (hi : i ≤ n) :
    polyRemainder n (a.setWidth 16 <<< i) = (gfShift^[i] a).setWidth 16 := by
  induction n generalizing a i with
  | zero =>
    obtain rfl : i = 0 := by omega
    simp [polyRemainder]
  | succ n ih =>
    rcases Nat.le_succ_iff.mp hi with hle | rfl
    · have hbit : (a.setWidth 16 <<< i).getLsbD (n + 8) = false := by
        have hge : a.getLsbD (n + 8 - i) = false := BitVec.getLsbD_of_ge _ _ (by omega)
        simp [hge]
      rw [polyRemainder, hbit, if_neg Bool.false_ne_true, ih (by omega) a hle]
    · rw [polyRemainder_succ_shift (by omega), ih (by omega) _ (Nat.le_refl n), ← Function.iterate_succ_apply]

/-- The loop's value after n iterations is the remainder of a times the terms of b below x^n. -/
theorem polyRemainder_polyProduct {n : Nat} (hn : n ≤ 8) (a b : Byte) :
    polyRemainder 8 (polyProduct a b n) = (gfmulLoop n a b 0).setWidth 16 := by
  induction n with
  | zero => exact polyRemainder_zero 8
  | succ n ih =>
    rw [polyProduct, polyRemainder_xor, ih (by omega), gfmulLoop_succ_last, BitVec.setWidth_xor]
    split
    · rw [polyRemainder_shift (Nat.le_refl 8) a (by omega)]
    · rw [polyRemainder_zero]
      rfl

/-- Settles O9: the loop's 8 iterations are the 8 terms of the product. -/
theorem gfmulIsPolynomialProduct : Obligations.GfmulIsPolynomialProduct := fun a b =>
  (polyRemainder_polyProduct (Nat.le_refl 8) a b).symm

/-! ## The field laws (R153) -/

theorem gfmul_xor_left (a a' b : Byte) : gfmul (a ^^^ a') b = gfmul a b ^^^ gfmul a' b := gfmulLoop_xor_left 8 a a' b

theorem gfmul_xor_right (a b b' : Byte) : gfmul a (b ^^^ b') = gfmul a b ^^^ gfmul a b' := gfmulLoop_xor_right 8 a b b'

theorem gfmul_zero (a : Byte) : gfmul a 0 = 0 :=
  calc gfmul a (0 ^^^ 0) = gfmul a 0 ^^^ gfmul a 0 := gfmul_xor_right a 0 0
    _ = 0 := BitVec.xor_self

theorem zero_gfmul (b : Byte) : gfmul 0 b = 0 :=
  calc gfmul (0 ^^^ 0) b = gfmul 0 b ^^^ gfmul 0 b := gfmul_xor_left 0 0 b
    _ = 0 := BitVec.xor_self

/-- By the 256 bytes: from a = 1 the loop copies b bit by bit. -/
theorem one_gfmul : ∀ b : Byte, gfmul 1 b = b := by decide

/-- Every byte is a sum of powers of x: what holds of 0 and 1 and is kept by sums and by the multiplier's shift holds of
every byte. -/
theorem byte_induction {P : Byte → Prop} (zero : P 0) (one : P 1) (xor : ∀ a b, P a → P b → P (a ^^^ b))
    (shift : ∀ a, P a → P (gfShift a)) (b : Byte) : P b := by
  have power (n : Nat) : P (gfShift^[n] 1) := by
    induction n with
    | zero => exact one
    | succ n ih => exact (Function.iterate_succ_apply' gfShift n 1).symm ▸ shift _ ih
  have sum (n : Nat) : P (gfmulLoop n 1 b 0) := by
    induction n with
    | zero => exact zero
    | succ n ih =>
      rw [gfmulLoop_succ_last]
      split
      · exact xor _ _ ih (power n)
      · exact xor _ _ ih zero
  exact one_gfmul b ▸ sum 8

theorem gfmulLoop_gfShift_left (n : Nat) (a b : Byte) : gfmulLoop n (gfShift a) b 0 = gfShift (gfmulLoop n a b 0) := by
  induction n generalizing a b with
  | zero => exact gfShift_zero.symm
  | succ n ih =>
    rw [gfmulLoop_succ, gfmulLoop_succ, gfShift_xor, ih]
    split
    · rfl
    · rw [gfShift_zero]

theorem gfmul_gfShift_left (a b : Byte) : gfmul (gfShift a) b = gfShift (gfmul a b) := gfmulLoop_gfShift_left 8 a b

theorem gfmul_gfShift_right (a b : Byte) : gfmul a (gfShift b) = gfShift (gfmul a b) := by
  induction a using byte_induction with
  | zero => rw [zero_gfmul, zero_gfmul, gfShift_zero]
  | one => rw [one_gfmul, one_gfmul]
  | xor a a' ha ha' => rw [gfmul_xor_left, gfmul_xor_left, gfShift_xor, ha, ha']
  | shift a ha => rw [gfmul_gfShift_left, gfmul_gfShift_left, ha]

theorem gfmul_one (a : Byte) : gfmul a 1 = a := by
  induction a using byte_induction with
  | zero => exact zero_gfmul 1
  | one => exact one_gfmul 1
  | xor a a' ha ha' => rw [gfmul_xor_left, ha, ha']
  | shift a ha => rw [gfmul_gfShift_left, ha]

theorem gfmul_comm (a b : Byte) : gfmul a b = gfmul b a := by
  induction a using byte_induction with
  | zero => rw [zero_gfmul, gfmul_zero]
  | one => rw [one_gfmul, gfmul_one]
  | xor a a' ha ha' => rw [gfmul_xor_left, gfmul_xor_right, ha, ha']
  | shift a ha => rw [gfmul_gfShift_left, gfmul_gfShift_right, ha]

theorem gfmul_assoc (a b c : Byte) : gfmul (gfmul a b) c = gfmul a (gfmul b c) := by
  induction a using byte_induction with
  | zero => rw [zero_gfmul, zero_gfmul, zero_gfmul]
  | one => rw [one_gfmul, one_gfmul]
  | xor a a' ha ha' => simp only [gfmul_xor_left, ha, ha']
  | shift a ha => simp only [gfmul_gfShift_left, ha]

/-- The multiplier's shift is multiplication by x (R151). -/
theorem gfShift_eq_gfmul_two (a : Byte) : gfShift a = gfmul a 2 :=
  calc gfShift a = gfShift (gfmul a 1) := by rw [gfmul_one]
    _ = gfmul a 2 := (gfmul_gfShift_right a 1).symm

theorem gfmul_gfmul_gfmul_comm (a b c d : Byte) : gfmul (gfmul a b) (gfmul c d) = gfmul (gfmul a c) (gfmul b d) := by
  rw [gfmul_assoc, ← gfmul_assoc b, gfmul_comm b c, gfmul_assoc c, ← gfmul_assoc]

/-! ## Inverses: a^256 = a, and the only idempotents are 0 and 1 -/

/-- Squaring, which is additive, as the field's characteristic is 2. -/
def gfSquare (a : Byte) : Byte := gfmul a a

theorem gfSquare_gfmul (a b : Byte) : gfSquare (gfmul a b) = gfmul (gfSquare a) (gfSquare b) :=
  gfmul_gfmul_gfmul_comm a b a b

/-- The two cross terms of the square of a sum cancel. -/
theorem gfSquare_xor (a b : Byte) : gfSquare (a ^^^ b) = gfSquare a ^^^ gfSquare b := by
  rw [gfSquare, gfmul_xor_left, gfmul_xor_right, gfmul_xor_right, gfmul_comm b a, ← BitVec.xor_assoc,
    BitVec.xor_assoc (gfmul a a), BitVec.xor_self, BitVec.xor_zero, gfSquare, gfSquare]

theorem iterate_gfSquare_xor (n : Nat) (a b : Byte) : gfSquare^[n] (a ^^^ b) = gfSquare^[n] a ^^^ gfSquare^[n] b := by
  induction n with
  | zero => rfl
  | succ n ih => simp only [Function.iterate_succ_apply', ih, gfSquare_xor]

theorem iterate_gfSquare_gfmul (n : Nat) (a b : Byte) :
    gfSquare^[n] (gfmul a b) = gfmul (gfSquare^[n] a) (gfSquare^[n] b) := by
  induction n with
  | zero => rfl
  | succ n ih => simp only [Function.iterate_succ_apply', ih, gfSquare_gfmul]

/-- a^256 = a: it holds of x, and squaring is additive. -/
theorem iterate_gfSquare_eight (a : Byte) : gfSquare^[8] a = a := by
  have two : gfSquare^[8] 2 = 2 := by decide +kernel
  induction a using byte_induction with
  | zero => exact Function.iterate_fixed (f := gfSquare) (gfmul_zero 0) 8
  | one => exact Function.iterate_fixed (f := gfSquare) (gfmul_one 1) 8
  | xor a b ha hb => rw [iterate_gfSquare_xor, ha, hb]
  | shift a ha => rw [gfShift_eq_gfmul_two, iterate_gfSquare_gfmul, ha, two]

/-- Squared at least once, a is a multiple of a^2. -/
theorem iterate_gfSquare_succ_eq (n : Nat) (a : Byte) : ∃ y, gfSquare^[n + 1] a = gfmul (gfSquare a) y := by
  induction n with
  | zero => exact ⟨1, (gfmul_one _).symm⟩
  | succ n ih =>
    obtain ⟨y, hy⟩ := ih
    refine ⟨gfmul (gfSquare a) (gfSquare y), ?_⟩
    rw [Function.iterate_succ_apply', hy, gfSquare_gfmul, gfSquare, gfmul_assoc]

/-- The modulus has one irreducible factor (R150), so the byte ring has no other idempotents; by the 256 bytes. -/
theorem eq_zero_or_one_of_idempotent : ∀ e : Byte, gfmul e e = e → e = 0 ∨ e = 1 := by decide

/-- As a = a^2 * y, a * y is idempotent, and it is not 0, because a is not. -/
theorem exists_gfmul_eq_one {a : Byte} (ha : a ≠ 0) : ∃ y, gfmul a y = 1 := by
  obtain ⟨y, hy⟩ := iterate_gfSquare_succ_eq 7 a
  have hay : gfmul a (gfmul a y) = a := by rw [← gfmul_assoc, ← gfSquare, ← hy, iterate_gfSquare_eight]
  have hidem : gfmul (gfmul a y) (gfmul a y) = gfmul a y := by
    rw [gfmul_comm a y, gfmul_assoc, gfmul_comm y a, hay, gfmul_comm]
  rcases eq_zero_or_one_of_idempotent _ hidem with h0 | h1
  · rw [h0, gfmul_zero] at hay
    exact absurd hay.symm ha
  · exact ⟨y, h1⟩

/-- Settles O8: the ring laws by sums of powers of x, the inverses from a^256 = a and the idempotents. -/
theorem gfmulLaws : Obligations.GfmulLaws :=
  ⟨gfmul_comm, gfmul_assoc, gfmul_xor_right, gfmul_zero, gfmul_one, by decide, fun _ => exists_gfmul_eq_one⟩

end Sys2Proof.Machine

/-! SUPPORT. Proofs of the statements of 41_block_transforms: a block command's outcome; PI_INV, R and R_inv on bytes; the
inverse laws, and that L is linear. -/

namespace Sys2Proof.Machine

/-! ## A block command: the LEN check, then one write of V[D] (30 R116, 41 section 3) -/

section Exec

variable (len : Byte) (d s1 s2 : VReg) (s : State)

theorem exec_sub : exec (.sub len d s1) s =
    withBlockLen len s (.next ((s.writeV d (substitute Config.rom (s.readV s1))).complete .ok)) := rfl

theorem exec_isub : exec (.isub len d s1) s =
    withBlockLen len s (.next ((s.writeV d (inverseSubstitute Config.rom (s.readV s1))).complete .ok)) := rfl

theorem exec_rstep : exec (.rstep len d s1) s =
    withBlockLen len s (.next ((s.writeV d (diffuseStep Config.rom (s.readV s1))).complete .ok)) := rfl

theorem exec_irstep : exec (.irstep len d s1) s =
    withBlockLen len s (.next ((s.writeV d (inverseDiffuseStep Config.rom (s.readV s1))).complete .ok)) := rfl

theorem exec_lin : exec (.lin len d s1) s =
    withBlockLen len s (.next ((s.writeV d (diffuse Config.rom (s.readV s1))).complete .ok)) := rfl

theorem exec_ilin : exec (.ilin len d s1) s =
    withBlockLen len s (.next ((s.writeV d (inverseDiffuse Config.rom (s.readV s1))).complete .ok)) := rfl

theorem exec_xor : exec (.xor len d s1 s2) s =
    withBlockLen len s (.next ((s.writeV d (s.readV s1 ^^^ s.readV s2)).complete .ok)) := rfl

end Exec

/-- A command that writes b to V[d] under the LEN check fails on every other LEN, and at 16 ends in a state where what
V[d] = b entails holds and V[d] alone was written. -/
theorem blockCommand_outcome {i : Byte → Instr} {s : State} {d : VReg} {b : Block} {P : State → Prop}
    (hi : ∀ len, exec (i len) s = withBlockLen len s (.next ((s.writeV d b).complete .ok)))
    (hP : ∀ t, t.readV d = b → P t) (len : Byte) :
    (len ≠ 16#8 → FailsWith (exec (i len) s) .invalidBlockSize s) ∧
      ∃ t, exec (i 16#8) s = .next t ∧ WritesOnlyV d s t ∧ P t := by
  constructor
  · intro hlen
    rw [hi]
    exact failsWith_withBlockLen hlen s _
  · have hv : ((s.writeV d b).complete .ok).readV d = b := by rw [readV_complete, readV_writeV_same]
    exact ⟨_, (hi _).trans (withBlockLen_of_eq rfl s _), writesOnlyV_complete s d b, hP _ hv⟩

/-! ## PI_INV, S and S_inv (R162, R163) -/

/-- An injective PI on the 256 bytes is onto, so the search for a preimage finds one. -/
theorem pi_piInv {rom : Rom} (hpi : Function.Injective rom.pi) (x : Byte) : rom.pi (piInv rom x) = x := by
  have : Finite Byte := Finite.of_injective BitVec.toFin fun _ _ => BitVec.eq_of_toFin_eq
  obtain ⟨y, hy⟩ := Finite.surjective_of_injective hpi x
  exact preimageBelow_spec rom.pi x 256 ⟨y.toNat, y.isLt, by rwa [BitVec.ofNat_toNat, BitVec.setWidth_eq]⟩

theorem piInv_pi {rom : Rom} (hpi : Function.Injective rom.pi) (x : Byte) : piInv rom (rom.pi x) = x :=
  hpi (pi_piInv hpi (rom.pi x))

theorem pi_blockByte_inverseSubstitute {rom : Rom} (hpi : Function.Injective rom.pi) (b : Block) {j : Nat} (hj : j < 16) :
    rom.pi (blockByte (inverseSubstitute rom b) j) = blockByte b j := by
  rw [blockByte_inverseSubstitute rom b hj, pi_piInv hpi]

theorem substitute_inverseSubstitute {rom : Rom} (hpi : Function.Injective rom.pi) (b : Block) :
    substitute rom (inverseSubstitute rom b) = b :=
  block_ext fun j hj => by rw [blockByte_substitute _ _ hj, pi_blockByte_inverseSubstitute hpi b hj]

theorem inverseSubstitute_substitute {rom : Rom} (hpi : Function.Injective rom.pi) (b : Block) :
    inverseSubstitute rom (substitute rom b) = b :=
  block_ext fun j hj => by rw [blockByte_inverseSubstitute _ _ hj, blockByte_substitute _ _ hj, piInv_pi hpi]

/-- Settles O10: both are byte-wise, and PI_INV is the two-sided inverse of the permutation PI. -/
theorem substitutionInverse : Obligations.SubstitutionInverse := fun rom ⟨hpi, _⟩ =>
  ⟨fun b _ hj => blockByte_substitute rom b hj, fun b _ hj => pi_blockByte_inverseSubstitute hpi b hj,
    inverseSubstitute_substitute hpi, substitute_inverseSubstitute hpi⟩

/-! ## R and R_inv (R165, R166) -/

/-- The model's XOR of n bytes is the fold over the list of them. -/
theorem xorBelow_eq_foldr (f : Nat → Byte) (n : Nat) :
    xorBelow f n = ((List.range n).map f).foldr (· ^^^ ·) 0 := by
  induction n with
  | zero => rfl
  | succ n ih =>
    rw [List.range_succ, List.map_append, List.foldr_append, List.map_singleton, List.foldr_cons, List.foldr_nil,
      BitVec.xor_comm, List.foldr_assoc, ← ih, xorBelow]

section Inverse

variable {rom : Rom} (h15 : rom.lcoef 15 = 0x01#8) (b : Block)
include h15

/-- The feedback over a block is the feedback over its bytes 0 to 14 XOR byte 15, whose coefficient is 1. -/
theorem feedback_eq_xor_last :
    xorBelow (fun i => gfmul (blockByte b i) (rom.lcoef i)) 16 =
      xorBelow (fun i => gfmul (blockByte b i) (rom.lcoef i)) 15 ^^^ blockByte b 15 := by
  rw [xorBelow, h15]
  exact congrArg _ (gfmul_one _)

/-- Bytes 0 to 14 shift back; byte 15 is the feedback with the other 15 terms cancelled. -/
theorem inverseDiffuseStep_diffuseStep : inverseDiffuseStep rom (diffuseStep rom b) = b := by
  refine block_ext fun j hj => ?_
  rcases Nat.lt_or_eq_of_le (Nat.le_of_lt_succ hj) with hj | rfl
  · rw [blockByte_inverseDiffuseStep rom _ hj, blockByte_diffuseStep_succ rom b hj]
  · rw [blockByte_inverseDiffuseStep_last,
      xorBelow_congr fun i hi => by rw [blockByte_diffuseStep_succ rom b hi],
      blockByte_diffuseStep_zero, feedback_eq_xor_last h15,
      BitVec.xor_comm _ (blockByte b 15), BitVec.xor_assoc, BitVec.xor_self, BitVec.xor_zero]

/-- Byte 0 is the feedback of R_inv's block, where byte 15 cancels all terms but B[0]; the others shift back. -/
theorem diffuseStep_inverseDiffuseStep : diffuseStep rom (inverseDiffuseStep rom b) = b := by
  refine block_ext fun j hj => ?_
  cases j with
  | zero =>
    rw [blockByte_diffuseStep_zero, feedback_eq_xor_last h15, blockByte_inverseDiffuseStep_last,
      xorBelow_congr fun i hi => by rw [blockByte_inverseDiffuseStep rom b hi],
      BitVec.xor_comm (blockByte b 0), ← BitVec.xor_assoc, BitVec.xor_self, BitVec.zero_xor]
  | succ i =>
    have hi : i < 15 := Nat.lt_of_succ_lt_succ hj
    rw [blockByte_diffuseStep_succ rom _ hi, blockByte_inverseDiffuseStep rom b hi]

end Inverse

/-- Settles O11: R_inv's bytes, and on bytes the feedback's terms cancel because LCOEF[15] = 1. -/
theorem diffuseStepInverse : Obligations.DiffuseStepInverse := fun rom h15 =>
  ⟨fun b _ hi => blockByte_inverseDiffuseStep rom b hi,
    fun b => by rw [blockByte_inverseDiffuseStep_last, xorBelow_eq_foldr],
    inverseDiffuseStep_diffuseStep h15, diffuseStep_inverseDiffuseStep h15⟩

/-! ## L and L_inv (R167, R168) -/

theorem diffuse_eq_iterate (rom : Rom) (b : Block) : diffuse rom b = (diffuseStep rom)^[16] b :=
  repeatBlock_eq_iterate (diffuseStep rom) 16 b

theorem inverseDiffuse_eq_iterate (rom : Rom) (b : Block) : inverseDiffuse rom b = (inverseDiffuseStep rom)^[16] b :=
  repeatBlock_eq_iterate (inverseDiffuseStep rom) 16 b

/-- R is additive: the multiplier is in its first factor, and the other bytes only move. -/
theorem diffuseStep_xor (rom : Rom) (a b : Block) :
    diffuseStep rom (a ^^^ b) = diffuseStep rom a ^^^ diffuseStep rom b := by
  refine block_ext fun j hj => ?_
  rw [blockByte_xor]
  cases j with
  | zero =>
    simp only [blockByte_diffuseStep_zero, blockByte_xor, gfmul_xor_left]
    exact xorBelow_xor _ _ 16
  | succ i =>
    have hi : i < 15 := Nat.lt_of_succ_lt_succ hj
    simp only [blockByte_diffuseStep_succ rom _ hi, blockByte_xor]

theorem iterate_diffuseStep_xor (rom : Rom) (n : Nat) (a b : Block) :
    (diffuseStep rom)^[n] (a ^^^ b) = (diffuseStep rom)^[n] a ^^^ (diffuseStep rom)^[n] b := by
  induction n with
  | zero => rfl
  | succ n ih => simp only [Function.iterate_succ_apply', ih, diffuseStep_xor]

theorem diffuse_xor (rom : Rom) (a b : Block) : diffuse rom (a ^^^ b) = diffuse rom a ^^^ diffuse rom b := by
  simp only [diffuse_eq_iterate, iterate_diffuseStep_xor]

/-- L(0) = L(0 XOR 0) = L(0) XOR L(0). -/
theorem diffuse_zero (rom : Rom) : diffuse rom 0 = 0 := by
  have h := diffuse_xor rom 0 0
  rwa [BitVec.xor_self, BitVec.xor_self] at h

/-- Settles O12: R is additive, so its iterates are. -/
theorem diffuseLinear : Obligations.DiffuseLinear := fun rom =>
  ⟨diffuse_eq_iterate rom, diffuse_xor rom, diffuse_zero rom⟩

theorem inverseDiffuse_diffuse {rom : Rom} (h15 : rom.lcoef 15 = 0x01#8) (b : Block) :
    inverseDiffuse rom (diffuse rom b) = b := by
  rw [inverseDiffuse_eq_iterate, diffuse_eq_iterate]
  exact Function.LeftInverse.iterate (inverseDiffuseStep_diffuseStep h15) 16 b

theorem diffuse_inverseDiffuse {rom : Rom} (h15 : rom.lcoef 15 = 0x01#8) (b : Block) :
    diffuse rom (inverseDiffuse rom b) = b := by
  rw [inverseDiffuse_eq_iterate, diffuse_eq_iterate]
  exact Function.LeftInverse.iterate (diffuseStep_inverseDiffuseStep h15) 16 b

/-- Settles O13: the iterates of inverse functions are inverse. -/
theorem diffuseInverse : Obligations.DiffuseInverse := fun rom h15 =>
  ⟨inverseDiffuse_eq_iterate rom, inverseDiffuse_diffuse h15, diffuse_inverseDiffuse h15⟩

/-! ## The commands (R170 to R176) -/

/-- Settles O14: byte j of the block SUB writes is PI of byte j. -/
theorem subCommand : Obligations.SubCommand :=
  ⟨runsAs_withFields (.sub 0 0 0) (by decide), fun s len d s1 =>
    blockCommand_outcome (exec_sub · d s1 s)
      (fun t ht j hj => by rw [ht, blockByte_substitute _ _ hj, Config.rom]) len⟩

/-- Settles O15: PI of byte j of the block ISUB writes is byte j, as the default PI is a permutation. -/
theorem isubCommand : Obligations.IsubCommand :=
  ⟨runsAs_withFields (.isub 0 0 0) (by decide), fun s len d s1 =>
    blockCommand_outcome (exec_isub · d s1 s)
      (fun t ht j hj => by rw [ht]; exact pi_blockByte_inverseSubstitute piTable_injective _ hj) len⟩

/-- Settles O16: byte 0 of the block RSTEP writes is the feedback, and the others move up. -/
theorem rstepCommand : Obligations.RstepCommand :=
  ⟨runsAs_withFields (.rstep 0 0 0) (by decide), fun s len d s1 =>
    blockCommand_outcome (exec_rstep · d s1 s)
      (fun t ht => by
        rw [ht]
        exact ⟨(blockByte_diffuseStep_zero _ _).trans (xorBelow_eq_foldr _ 16),
          fun i hi => blockByte_diffuseStep_succ _ _ hi⟩) len⟩

/-- Settles O17: the bytes of the block IRSTEP writes move down, and byte 15 is B[0] XOR the rest of the feedback. -/
theorem irstepCommand : Obligations.IrstepCommand :=
  ⟨runsAs_withFields (.irstep 0 0 0) (by decide), fun s len d s1 =>
    blockCommand_outcome (exec_irstep · d s1 s)
      (fun t ht => by
        rw [ht, ← xorBelow_eq_foldr]
        exact ⟨fun i hi => blockByte_inverseDiffuseStep _ _ hi, blockByte_inverseDiffuseStep_last _ _⟩) len⟩

/-- Settles O18: LIN writes L, which is R applied 16 times. -/
theorem linCommand : Obligations.LinCommand :=
  ⟨runsAs_withFields (.lin 0 0 0) (by decide), fun s len d s1 =>
    blockCommand_outcome (exec_lin · d s1 s) (fun _ ht => ht.trans (diffuse_eq_iterate _ _)) len⟩

/-- Settles O19: ILIN writes L_inv, which is R_inv applied 16 times. -/
theorem ilinCommand : Obligations.IlinCommand :=
  ⟨runsAs_withFields (.ilin 0 0 0) (by decide), fun s len d s1 =>
    blockCommand_outcome (exec_ilin · d s1 s) (fun _ ht => ht.trans (inverseDiffuse_eq_iterate _ _)) len⟩

/-- Settles O20: the XOR of two blocks is byte by byte, and a block XOR itself is 0. -/
theorem xorCommand : Obligations.XorCommand :=
  ⟨runsAs_withFields (.xor 0 0 0 0) (by decide), fun s len d s1 s2 =>
    blockCommand_outcome (exec_xor · d s1 s2 s)
      (fun t ht => by
        rw [ht]
        exact ⟨fun j _ => blockByte_xor _ _ j, fun hs => hs ▸ BitVec.xor_self⟩) len⟩

end Sys2Proof.Machine

/-! SUPPORT. Proofs of the statements of 42_cipher_core: how a command with a round-key index runs and ends; the inverse
laws of the rounds and of the block cipher; and the running value of the nine rounds. -/

namespace Sys2Proof.Machine

/-! ## A command with a round-key index: the IMM check, then the LEN check (30 R116, R117, R120) -/

theorem failsWith_of_decode_error {s : State} (h : ∃ e, decode s.cmd = .error e) :
    FailsWith (runCommand s) .illegalCommand s := by
  obtain ⟨e, he⟩ := h
  rw [runCommand, runCommandBy_of_error exec he]
  exact failsWith_complete s .illegalCommand

/-- A word with the opcode of a round-key command decodes to that command, its fields the word's, unless a reserved bit is
set or its IMM is above 9. -/
theorem runsAsRoundKey_withFields (i : Instr) (hi : i.opcode ∈ roundKeyOpcodes) :
    RunsAsRoundKey i.opcode fun w => i.withFields w := by
  intro s hop
  constructor
  · intro hbad
    refine failsWith_of_decode_error ((rejectedWords s.cmd).mpr ?_)
    exact hbad.imp_right (.imp_right fun himm => .inr ⟨hop ▸ hi, himm⟩)
  · intro h19 h23 himm
    have hb := (reservedBitSet_eq_false_iff s.cmd).mpr ⟨h19, h23⟩
    have hwf := (wellFormed_withFields_iff s.cmd i).mpr fun _ => himm
    have hop' : fieldOp s.cmd = (i.withFields s.cmd).opcode := hop.trans (opcode_withFields s.cmd i).symm
    exact runCommandBy_of_ok exec (decode_eq_ok_iff.mpr ⟨hb, hop', hwf, withFields_withFields s.cmd i⟩)

theorem failsWith_withRoundKey {imm : Imm} (h : 9 < imm.toNat) (s : State) (k : RKReg → Result) :
    FailsWith (withRoundKey imm s k) .illegalCommand s :=
  (withRoundKey_of_ge h s k).symm ▸ failsWith_complete s .illegalCommand

theorem withRoundKey_of_val {imm : Imm} {i : RKReg} (h : imm.toNat = i.val) (s : State) (k : RKReg → Result) :
    withRoundKey imm s k = k i := by
  rw [withRoundKey_of_lt (h ▸ i.isLt)]
  exact congrArg k (Fin.ext h)

/-- A command that makes the write f i under the IMM and the LEN check, i its round-key index, fails on every other IMM
and then on every other LEN, and else ends in the completed write. -/
theorem roundKeyCommand_outcome {instr : Byte → Instr} {s : State} {imm : Imm} {f : RKReg → State}
    {P : RKReg → State → Prop}
    (hexec : ∀ len, exec (instr len) s =
      withRoundKey imm s fun i => withBlockLen len s (.next ((f i).complete .ok)))
    (hP : ∀ i, P i ((f i).complete .ok)) (len : Byte) :
    (9 < imm.toNat → FailsWith (exec (instr len) s) .illegalCommand s) ∧
      (imm.toNat ≤ 9 → len ≠ 16#8 → FailsWith (exec (instr len) s) .invalidBlockSize s) ∧
      ∀ i : RKReg, imm.toNat = i.val → ∃ t, exec (instr 16#8) s = .next t ∧ P i t := by
  simp only [hexec]
  refine ⟨fun himm => failsWith_withRoundKey himm s _, fun himm hlen => ?_, fun i hi => ?_⟩
  · rw [withRoundKey_of_lt (by omega)]
    exact failsWith_withBlockLen hlen s _
  · rw [withRoundKey_of_val hi, withBlockLen_of_eq rfl]
    exact ⟨_, rfl, hP i⟩

section Exec

variable (len : Byte) (d s1 : VReg) (imm : Imm) (s : State)

theorem exec_round : exec (.round len d s1 imm) s = withRoundKey imm s fun i =>
    withBlockLen len s (.next ((s.writeV d (roundStep Config.rom (s.readRK i) (s.readV s1))).complete .ok)) := rfl

theorem exec_iround : exec (.iround len d s1 imm) s = withRoundKey imm s fun i =>
    withBlockLen len s (.next ((s.writeV d (inverseRoundStep Config.rom (s.readRK i) (s.readV s1))).complete .ok)) := rfl

theorem exec_rkld : exec (.rkld len s1 imm) s = withRoundKey imm s fun i =>
    withBlockLen len s (.next ((s.writeRK i (s.readV s1)).complete .ok)) := rfl

theorem exec_rkst : exec (.rkst d imm) s = withRoundKey imm s fun i =>
    .next ((s.writeV d (s.readRK i)).complete .ok) := rfl

theorem execWith_enc (rom : Rom) : execWith rom (.enc len d s1) s =
    withBlockLen len s (.next ((s.writeV d (encryptBlock rom s.rk (s.readV s1))).complete .ok)) := rfl

theorem execWith_dec (rom : Rom) : execWith rom (.dec len d s1) s =
    withBlockLen len s (.next ((s.writeV d (decryptBlock rom s.rk (s.readV s1))).complete .ok)) := rfl

theorem exec_enc : exec (.enc len d s1) s =
    withBlockLen len s (.next ((s.writeV d (encryptBlock Config.rom s.rk (s.readV s1))).complete .ok)) :=
  (exec_eq_execWith _ s).trans (execWith_enc len d s1 s Config.rom)

theorem exec_dec : exec (.dec len d s1) s =
    withBlockLen len s (.next ((s.writeV d (decryptBlock Config.rom s.rk (s.readV s1))).complete .ok)) :=
  (exec_eq_execWith _ s).trans (execWith_dec len d s1 s Config.rom)

end Exec

/-! ## The inverse round undoes the round, and decryption encryption (R193, R198) -/

theorem xor_xor_cancel (a k : Block) : a ^^^ k ^^^ k = a := by
  rw [BitVec.xor_assoc, BitVec.xor_self, BitVec.xor_zero]

theorem inverseRoundStep_roundStep {rom : Rom} (hrom : rom.WellFormed) (k p : Block) :
    inverseRoundStep rom k (roundStep rom k p) = p := by
  obtain ⟨hpi, h15⟩ := hrom
  rw [inverseRoundStep, roundStep, inverseDiffuse_diffuse h15, inverseSubstitute_substitute hpi, xor_xor_cancel]

/-- Steps undone one by one, the last step first, are undone together. -/
theorem foldl_reverse_foldl {α ι : Type} {f g : α → ι → α} (h : ∀ x i, g (f x i) i = x) (l : List ι) (x : α) :
    l.reverse.foldl g (l.foldl f x) = x := by
  induction l generalizing x with
  | nil => rfl
  | cons i l ih =>
    rw [List.foldl_cons, List.reverse_cons, List.foldl_append, ih]
    exact h x i

/-- The two XORs with RK9 meet and cancel; then the inverse rounds undo the rounds, the last one first. -/
theorem decryptBlock_encryptBlock {rom : Rom} (hrom : rom.WellFormed) (rk : Vector Block 10) (p : Block) :
    decryptBlock rom rk (encryptBlock rom rk p) = p := by
  rw [decryptBlock, encryptBlock, xor_xor_cancel]
  exact foldl_reverse_foldl (fun x i => inverseRoundStep_roundStep hrom rk[i.val] x) fullRounds p

/-- DEC reads back what ENC wrote, under the schedule that ENC kept. -/
theorem execWith_enc_dec {rom : Rom} (hrom : rom.WellFormed) (s : State) (p c q : VReg) :
    ∃ t u, execWith rom (.enc 16#8 c p) s = .next t ∧ execWith rom (.dec 16#8 q c) t = .next u ∧
      u.readV q = s.readV p := by
  simp only [execWith_enc, execWith_dec, withBlockLen_of_eq]
  refine ⟨_, _, rfl, rfl, ?_⟩
  simp [decryptBlock_encryptBlock hrom]

/-- Settles O27: on blocks, and so on the command pair, at any permitted ROM contents and at the default ones. -/
theorem blockRoundTrip : Obligations.BlockRoundTrip :=
  ⟨fun _ => decryptBlock_encryptBlock, fun _ => execWith_enc_dec, fun s p c q => by
    simpa only [exec_eq_execWith] using execWith_enc_dec rom_wellFormed s p c q⟩

/-! ## The running value of the nine rounds (R190, R191) -/

/-- A fold over the first n indices is the last of the running values. -/
theorem foldl_finRange_eq {α : Type} {n : Nat} {f : α → Fin n → α} {v : Nat → α}
    (hv : ∀ i : Fin n, v (i.val + 1) = f (v i.val) i) : (List.finRange n).foldl f (v 0) = v n := by
  induction n with
  | zero => rfl
  | succ n ih =>
    rw [List.finRange_succ_last, List.foldl_append, List.foldl_map, ih]
    · exact (hv (Fin.last n)).symm
    · exact fun i => hv i.castSucc

/-- A fold over the first n indices from the last one down starts at the last of the running values and ends at the
first. -/
theorem foldl_reverse_finRange_eq {α : Type} {n : Nat} {f : α → Fin n → α} {v : Nat → α}
    (hv : ∀ i : Fin n, v i.val = f (v (i.val + 1)) i) : (List.finRange n).reverse.foldl f (v n) = v 0 := by
  induction n with
  | zero => rfl
  | succ n ih =>
    have hlast : v n = f (v (n + 1)) (Fin.last n) := hv (Fin.last n)
    rw [List.finRange_succ_last, List.reverse_append, List.foldl_append, List.reverse_singleton, List.foldl_cons,
      List.foldl_nil, ← hlast, ← List.map_reverse, List.foldl_map]
    exact ih fun i => hv i.castSucc

theorem fullRounds_eq_map_finRange : fullRounds = (List.finRange 9).map Fin.castSucc := rfl

theorem encryptBlock_eq_of_rounds {rom : Rom} {rk : Vector Block 10} {v : Nat → Block}
    (hv : ∀ i : Fin 9, v (i.val + 1) = roundStep rom rk[i.val] (v i.val)) :
    encryptBlock rom rk (v 0) = v 9 ^^^ rk[9] := by
  rw [encryptBlock, fullRounds_eq_map_finRange, List.foldl_map]
  exact congrArg (· ^^^ rk[9]) (foldl_finRange_eq hv)

theorem decryptBlock_eq_of_rounds {rom : Rom} {rk : Vector Block 10} {c : Block} {v : Nat → Block}
    (h9 : v 9 = c ^^^ rk[9]) (hv : ∀ i : Fin 9, v i.val = inverseRoundStep rom rk[i.val] (v (i.val + 1))) :
    decryptBlock rom rk c = v 0 := by
  rw [decryptBlock, fullRounds_eq_map_finRange, ← List.map_reverse, List.foldl_map, ← h9]
  exact foldl_reverse_finRange_eq hv

/-! ## The commands (R192 to R197) -/

/-- Settles O21: ROUND writes one encryption round. -/
theorem roundCommand : Obligations.RoundCommand :=
  ⟨runsAsRoundKey_withFields (.round 0 0 0 0) (by decide), fun s len d s1 imm =>
    roundKeyCommand_outcome (exec_round · d s1 imm s)
      (fun i => ⟨writesOnlyV_complete s d _, readV_writeV_same s d _⟩) len⟩

/-- Settles O22: IROUND writes one decryption round, which undoes the encryption round. -/
theorem iroundCommand : Obligations.IroundCommand :=
  ⟨runsAsRoundKey_withFields (.iround 0 0 0 0) (by decide), fun s len d s1 imm =>
    roundKeyCommand_outcome (exec_iround · d s1 imm s)
      (fun i => by
        have hv := readV_writeV_same s d (inverseRoundStep Config.rom (s.readRK i) (s.readV s1))
        refine ⟨writesOnlyV_complete s d _, hv, fun p hp => hv.trans ?_⟩
        rw [hp]
        exact inverseRoundStep_roundStep rom_wellFormed (s.readRK i) p) len⟩

/-- Settles O23: ENC writes E, which ends at the last of the running values XOR RK9. -/
theorem encCommand : Obligations.EncCommand :=
  ⟨runsAs_withFields (.enc 0 0 0) (by decide), fun s len d s1 =>
    blockCommand_outcome (exec_enc · d s1 s)
      (fun t ht v h0 hv => by
        rw [ht, ← h0]
        exact encryptBlock_eq_of_rounds hv) len⟩

/-- Settles O24: DEC writes D, which ends at the running value 0. -/
theorem decCommand : Obligations.DecCommand :=
  ⟨runsAs_withFields (.dec 0 0 0) (by decide), fun s len d s1 =>
    blockCommand_outcome (exec_dec · d s1 s)
      (fun _ ht _ h9 hv => ht.trans (decryptBlock_eq_of_rounds h9 hv)) len⟩

/-- Settles O25: RKLD writes RK[i] alone. -/
theorem rkldCommand : Obligations.RkldCommand :=
  ⟨runsAsRoundKey_withFields (.rkld 0 0 0) (by decide), fun s len s1 imm =>
    roundKeyCommand_outcome (exec_rkld · s1 imm s)
      (fun i => ⟨readRK_writeRK_same s i _, fun _ hj => readRK_writeRK_ne s _ hj, fun _ => rfl,
        by simp [KeepsStream], by simp [KeepsHostSide], rfl, rfl, rfl⟩) len⟩

/-- Settles O26: RKST writes RK[i] to V[d], with no LEN check. -/
theorem rkstCommand : Obligations.RkstCommand := by
  refine ⟨runsAsRoundKey_withFields (.rkst 0 0) (by decide), fun s d imm => ?_⟩
  rw [exec_rkst]
  refine ⟨fun himm => failsWith_withRoundKey himm s _, fun i hi => ?_⟩
  rw [withRoundKey_of_val hi]
  exact ⟨_, rfl, writesOnlyV_complete s d _, readV_writeV_same s d _⟩

end Sys2Proof.Machine

/-! SUPPORT. Proofs of the statements of 43_key_schedule: the commands that write a round constant or a Feistel half, the
pair that runs through the 32 Feistel steps of EXPAND, and what keeps the schedule. -/

namespace Sys2Proof.Machine

/-! ## RCON and FEISTEL (R213, R214) -/

theorem exec_rcon (d : VReg) (imm : Imm) (s : State) :
    exec (.rcon d imm) s = .next ((s.writeV d (roundConstant imm.toNat)).complete .ok) := rfl

theorem exec_feistel (len : Byte) (d s1 s2 : VReg) (imm : Imm) (s : State) : exec (.feistel len d s1 s2 imm) s =
    withBlockLen len s (.next ((s.writeV d
      (feistelLeft Config.rom (s.readV s1) (s.readV s2) (roundConstant imm.toNat))).complete .ok)) := rfl

/-- IMM + 1 is at most 32, so byte 0 of C[IMM] holds it (R210). -/
theorem toNat_blockByte_roundConstant (imm : Imm) : (blockByte (roundConstant imm.toNat) 0).toNat = imm.toNat + 1 := by
  have himm := imm.isLt
  rw [blockByte_roundConstant imm.toNat (by decide), if_pos rfl, BitVec.toNat_ofNat]
  omega

/-- Settles O28: RCON writes C[IMM], whatever IMM is. -/
theorem rconCommand : Obligations.RconCommand := by
  refine ⟨runsAs_withFields (.rcon 0 0) (by decide), fun s d imm =>
    ⟨_, exec_rcon d imm s, writesOnlyV_complete s d _, ?_⟩⟩
  rw [readV_complete, readV_writeV_same]
  refine ⟨toNat_blockByte_roundConstant imm, fun j hpos hj => ?_⟩
  rw [blockByte_roundConstant imm.toNat hj, if_neg (by omega)]

/-- Settles O29: FEISTEL writes the new left half of one Feistel step. -/
theorem feistelCommand : Obligations.FeistelCommand :=
  ⟨runsAs_withFields (.feistel 0 0 0 0 0) (by decide), fun s len d s1 s2 imm =>
    blockCommand_outcome (exec_feistel · d s1 s2 imm s) (fun _ ht => ht) len⟩

/-! ## The pair through the 32 Feistel steps, and EXPAND (R212, R216) -/

section Pair

variable {rom : Rom} {p : Nat → Block × Block} {n : Nat}

/-- Steps from C[first] on carry a sequence of pairs that takes them from position first on. -/
theorem feistelSteps_eq_of_steps {first : Nat}
    (hp : ∀ m < first + n, p (m + 1) = feistelStep rom (p m) (roundConstant m)) :
    feistelSteps rom first n (p first) = p (first + n) := by
  induction n with
  | zero => rfl
  | succ n ih =>
    rw [feistelSteps, ih fun m hm => hp m (by omega)]
    exact (hp (first + n) (by omega)).symm

/-- The pair carries on from one outer iteration to the next, so n iterations are 8n steps in a row. -/
theorem feistelPair_eq_of_steps (hp : ∀ m < 8 * n, p (m + 1) = feistelStep rom (p m) (roundConstant m)) :
    feistelPair rom (p 0).1 (p 0).2 n = p (8 * n) := by
  induction n with
  | zero => rfl
  | succ n ih =>
    rw [feistelPair, ih fun m hm => hp m (by omega)]
    exact feistelSteps_eq_of_steps hp

end Pair

section Keys

variable (rom : Rom) (kl kr : Block) (i : Fin 5)

theorem expand_left : (expand rom kl kr)[2 * i.val]'(by omega) = (feistelPair rom kl kr i.val).1 := by
  fin_cases i <;> rfl

theorem expand_right : (expand rom kl kr)[2 * i.val + 1]'(by omega) = (feistelPair rom kl kr i.val).2 := by
  fin_cases i <;> rfl

end Keys

theorem exec_expand (len : Byte) (s1 s2 : VReg) (s : State) : exec (.expand len s1 s2) s =
    withKeyLen len s (.next ((s.writeSchedule (expand Config.rom (s.readV s1) (s.readV s2))).complete .ok)) := rfl

theorem failsWith_withKeyLen {len : Byte} (h : len ≠ 32#8) (s : State) (k : Result) :
    FailsWith (withKeyLen len s k) .invalidKeySize s :=
  (withKeyLen_of_ne h s k).symm ▸ failsWith_complete s .invalidKeySize

/-- Settles O30: EXPAND writes the schedule alone, whose keys 2i and 2i+1 are the pair after 8i steps. -/
theorem expandCommand : Obligations.ExpandCommand := by
  refine ⟨runsAs_withFields (.expand 0 0 0) (by decide), fun s len s1 s2 => ?_⟩
  rw [exec_expand, exec_expand, withKeyLen_of_eq rfl]
  refine ⟨fun hlen => failsWith_withKeyLen hlen s _, _, rfl, fun _ => rfl, by simp [KeepsStream],
    by simp [KeepsHostSide], ⟨rfl, rfl, rfl⟩, fun l r hl hr hstep i => ?_⟩
  have hpair : feistelPair Config.rom (l 0) (r 0) i.val = (l (8 * i.val), r (8 * i.val)) :=
    feistelPair_eq_of_steps (p := fun m => (l m, r m)) fun m hm => by
      obtain ⟨hleft, hright⟩ := hstep m (by omega)
      exact Prod.ext hleft hright
  rw [readRK_complete, readRK_complete, readRK_writeSchedule, readRK_writeSchedule, ← hl, ← hr]
  constructor
  · exact (expand_left ..).trans (congrArg Prod.fst hpair)
  · exact (expand_right ..).trans (congrArg Prod.snd hpair)

/-! ## What keeps the schedule (R215; 10_state R33) -/

theorem exec_keepsRK {i : Instr} {s t : State} (h : exec i s = .next t) (hexpand : i.mnemonic ≠ "EXPAND")
    (hrkld : i.mnemonic ≠ "RKLD") : KeepsRK s t := by
  rcases exec_cases h with ⟨c, -, -, rfl⟩ | ⟨-, hn⟩ | ⟨l, s1, -, rfl⟩ | ⟨l, s1, -, -, -, rfl⟩ |
    ⟨l, d, s1, c, -, -, rfl⟩ | ⟨l, d, s1, c, p, -, -, rfl⟩ | ⟨-, rfl⟩
  case inr.inl =>
    cases hn with
    | none ht | block d b ht => exact ht ▸ fun _ => rfl
    | key hi => exact absurd hi hrkld
    | schedule hi => exact absurd hi hexpand
  all_goals exact fun _ => rfl

theorem runCommand_keepsRK {s t : State} (h : runCommand s = .next t)
    (hcmd : ∀ i, decode s.cmd = .ok i → i.mnemonic ≠ "EXPAND" ∧ i.mnemonic ≠ "RKLD") : KeepsRK s t := by
  rcases runCommand_cases h with rfl | ⟨i, hd, hi⟩
  · exact fun _ => rfl
  · obtain ⟨hexpand, hrkld⟩ := hcmd i hd
    exact exec_keepsRK hi hexpand hrkld

theorem PortNext.keepsRK {s t : State} (hp : PortNext s t) : KeepsRK s t := by cases hp <;> exact fun _ => rfl

section NoScheduleCommand

variable {s t : State}
  (hcmd : s.status.busy = true → ∀ i, decode s.cmd = .ok i → i.mnemonic ≠ "EXPAND" ∧ i.mnemonic ≠ "RKLD")
include hcmd

theorem sequencerTurn_keepsRK (h : sequencerTurnBy exec s = .next t) : KeepsRK s t := by
  unfold sequencerTurnBy at h
  split at h
  · next hrun => exact runCommand_keepsRK h (hcmd (Bool.and_eq_true_iff.mp hrun).2)
  · exact Host.Outcome.next.inj h ▸ fun _ => rfl

/-- Only the sequencer's turn can write the schedule of a core out of reset: the port maps no RK, and there is no reset to
release. -/
theorem takeTurn_keepsRK {turn : Turn} (hr : s.rstN = true) (h : takeTurnBy exec turn s = .next t) : KeepsRK s t := by
  cases turn with
  | sequencer => exact sequencerTurn_keepsRK hcmd h
  | host a =>
    rw [takeTurnBy_host, hostTurn_of_rstN a hr] at h
    exact Host.Outcome.next.inj h ▸ (portAccess_next s a).keepsRK
  | assertReset => exact Host.Outcome.next.inj h ▸ fun _ => rfl
  | releaseReset =>
    rw [takeTurnBy_releaseReset, releaseTurn_of_rstN hr] at h
    exact Host.Outcome.next.inj h ▸ fun _ => rfl

end NoScheduleCommand

/-- Settles O31: the first pair is the master key, and a step is one turn, of which only a completing EXPAND or RKLD writes
the schedule. -/
theorem scheduleShape : Obligations.ScheduleShape := by
  refine ⟨fun rom kl kr => ⟨expand_left rom kl kr 0, expand_right rom kl kr 0⟩, fun i s t => exec_keepsRK,
    fun s t hr h hcmd => ?_⟩
  cases hag : s.agenda with
  | nil => exact sequencerTurn_keepsRK hcmd (step_of_agenda_nil hag ▸ h)
  | cons turn rest => exact takeTurn_keepsRK (s := s.withAgenda rest) hcmd hr (step_of_agenda_cons hag ▸ h)

end Sys2Proof.Machine

/-! SUPPORT. Proofs of the statements of 44_cbc_stream about its commands: what the stream commands write and how they fail,
what keeps the stream, and the mode transitions. -/

namespace Sys2Proof.Machine

/-! ## The stream commands (R232, R233, R236 to R238) -/

section Exec

variable (len : Byte) (d s1 : VReg) (s : State)

theorem exec_cbceStart : exec (.cbceStart len s1) s =
    withBlockLen len s (.next ((s.openStream .enc (s.readV s1) (blocksOfLength s.slen)).complete .ok)) := rfl

theorem execWith_cbceBlock (rom : Rom) : execWith rom (.cbceBlock len d s1) s =
    withBlockLen len s (withMode .enc s
      (.next ((cbceBlockWrites d (encryptBlock rom s.rk (s.readV s1 ^^^ s.fb)) s).complete .ok))) := rfl

theorem exec_cbceBlock : exec (.cbceBlock len d s1) s =
    withBlockLen len s (withMode .enc s
      (.next ((cbceBlockWrites d (encryptBlock Config.rom s.rk (s.readV s1 ^^^ s.fb)) s).complete .ok))) :=
  (exec_eq_execWith _ s).trans (execWith_cbceBlock len d s1 s Config.rom)

theorem exec_cbcdStart : exec (.cbcdStart len s1) s =
    withBlockLen len s (withFrame s.flen s
      (.next ((s.openStream .dec (s.readV s1) (blocksOfFrame s.flen)).complete .ok))) := rfl

theorem execWith_cbcdBlock (rom : Rom) : execWith rom (.cbcdBlock len d s1) s =
    withBlockLen len s (withMode .dec s
      (.next ((cbcdBlockWrites d (s.readV s1) (decryptBlock rom s.rk (s.readV s1) ^^^ s.fb) s).complete .ok))) := rfl

theorem exec_cbcdBlock : exec (.cbcdBlock len d s1) s =
    withBlockLen len s (withMode .dec s
      (.next ((cbcdBlockWrites d (s.readV s1) (decryptBlock Config.rom s.rk (s.readV s1) ^^^ s.fb) s).complete .ok))) :=
  (exec_eq_execWith _ s).trans (execWith_cbcdBlock len d s1 s Config.rom)

theorem exec_cbcAbort : exec .cbcAbort s = .next (s.closeStream.complete .ok) := rfl

end Exec

theorem failsWith_withMode {m : Mode} {s : State} (h : s.status.mode ≠ m) (k : Result) :
    FailsWith (withMode m s k) .sequenceError s :=
  (withMode_of_ne h k).symm ▸ failsWith_complete s .sequenceError

theorem withFrame_of_short {flen : Dword} (h : flen.toNat < 24) (s : State) (k : Result) :
    withFrame flen s k = .next (s.complete .frameTooShort) := if_pos h

theorem withFrame_of_truncated {flen : Dword} (h24 : 24 ≤ flen.toNat) (h16 : (flen.toNat - 24) % 16 ≠ 0) (s : State)
    (k : Result) : withFrame flen s k = .next (s.complete .truncatedCiphertext) := by
  rw [withFrame, if_neg (by omega), if_pos h16]
  rfl

theorem withFrame_of_ok {flen : Dword} (h24 : 24 ≤ flen.toNat) (h16 : (flen.toNat - 24) % 16 = 0) (s : State)
    (k : Result) : withFrame flen s k = k := by
  rw [withFrame, if_neg (by omega), if_neg (by omega)]

/-! ### The mode by the block count -/

/-- A mode by whether the count is 0, the count known as a number. -/
theorem modeWithBlocks_eq_ite (m : Mode) (n : Dword) : modeWithBlocks m n = if n.toNat = 0 then .idle else m := by
  have hiff : n = 0 ↔ n.toNat = 0 := BitVec.toNat_eq
  simp only [modeWithBlocks, hiff]

theorem modeWithBlocks_blocksOfLength (m : Mode) (slen : Dword) :
    modeWithBlocks m (blocksOfLength slen) = if slen = 0 then .idle else m := by
  have hiff : (slen.toNat + 15) / 16 = 0 ↔ slen = 0 := by bv_omega
  simp only [modeWithBlocks_eq_ite, toNat_blocksOfLength, hiff]

theorem modeWithBlocks_blocksOfFrame (m : Mode) {flen : Dword} (h24 : 24 ≤ flen.toNat)
    (h16 : (flen.toNat - 24) % 16 = 0) :
    modeWithBlocks m (blocksOfFrame flen) = if flen = 24 then .idle else m := by
  have hiff : (flen.toNat - 24) / 16 = 0 ↔ flen = 24 := by bv_omega
  simp only [modeWithBlocks_eq_ite, toNat_blocksOfFrame flen h24, hiff]

/-- Settles O32: the LEN check guards the opening of a stream of ceil(SLEN / 16) blocks. -/
theorem cbceStartCommand : Obligations.CbceStartCommand := by
  refine ⟨runsAs_withFields (.cbceStart 0 0) (by decide), fun s len s1 => ?_⟩
  rw [exec_cbceStart, exec_cbceStart, withBlockLen_of_eq rfl]
  exact ⟨fun hlen => failsWith_withBlockLen hlen s _, _, rfl, rfl, rfl, toNat_blocksOfLength s.slen,
    modeWithBlocks_blocksOfLength .enc s.slen, rfl, fun _ => rfl, fun _ => rfl, by simp [KeepsHostSide], rfl, rfl, rfl⟩

/-- Settles O33: the LEN and the mode check guard one block's writes. -/
theorem cbceBlockCommand : Obligations.CbceBlockCommand := by
  refine ⟨runsAs_withFields (.cbceBlock 0 0 0) (by decide), fun s len d s1 => ?_⟩
  rw [exec_cbceBlock, exec_cbceBlock, withBlockLen_of_eq rfl]
  refine ⟨fun hlen => failsWith_withBlockLen hlen s _, fun hm => failsWith_withMode hm _, fun hm => ?_⟩
  rw [withMode_of_eq hm]
  have hv := readV_writeV_same s d (encryptBlock Config.rom s.rk (s.readV s1 ^^^ s.fb))
  exact ⟨_, rfl, hv, hv.symm, rfl, toNat_sub_validCount s.remain, rfl, hm ▸ rfl, fun _ hn => readV_writeV_ne s _ hn,
    fun _ => rfl, by simp [KeepsHostSide, cbceBlockWrites], rfl, rfl, rfl⟩

/-- Settles O34: the LEN check, then FrameCheck(), guard the opening of a stream of (FLEN - 24) / 16 blocks. -/
theorem cbcdStartCommand : Obligations.CbcdStartCommand := by
  refine ⟨runsAs_withFields (.cbcdStart 0 0) (by decide), fun s len s1 => ?_⟩
  rw [exec_cbcdStart, exec_cbcdStart, withBlockLen_of_eq rfl]
  refine ⟨fun hlen => failsWith_withBlockLen hlen s _, fun hshort => ?_, fun h24 h16 => ?_, fun h24 h16 => ?_⟩
  · rw [withFrame_of_short hshort]
    exact failsWith_complete s _
  · rw [withFrame_of_truncated h24 h16]
    exact failsWith_complete s _
  · rw [withFrame_of_ok h24 h16]
    exact ⟨_, rfl, rfl, rfl, toNat_blocksOfFrame s.flen h24, modeWithBlocks_blocksOfFrame .dec h24 h16, rfl,
      fun _ => rfl, fun _ => rfl, by simp [KeepsHostSide], rfl, rfl, rfl⟩

/-- Settles O35: the LEN and the mode check guard one block's writes. -/
theorem cbcdBlockCommand : Obligations.CbcdBlockCommand := by
  refine ⟨runsAs_withFields (.cbcdBlock 0 0 0) (by decide), fun s len d s1 => ?_⟩
  rw [exec_cbcdBlock, exec_cbcdBlock, withBlockLen_of_eq rfl]
  refine ⟨fun hlen => failsWith_withBlockLen hlen s _, fun hm => failsWith_withMode hm _, fun hm => ?_⟩
  rw [withMode_of_eq hm]
  exact ⟨_, rfl, readV_writeV_same s d _, rfl, toNat_validCount s.remain, toNat_sub_validCount s.remain, rfl,
    hm ▸ rfl, fun _ hn => readV_writeV_ne s _ hn, fun _ => rfl, by simp [KeepsHostSide, cbcdBlockWrites],
    rfl, rfl, rfl⟩

/-- Settles O36: CBC_ABORT has no check, and closes the stream. -/
theorem cbcAbortCommand : Obligations.CbcAbortCommand :=
  ⟨runsAs_withFields .cbcAbort (by decide), fun s => ⟨_, exec_cbcAbort s, rfl, rfl, rfl, rfl, rfl, fun _ => rfl,
    fun _ => rfl, by simp [KeepsHostSide], rfl, rfl, rfl⟩⟩

/-! ## What keeps the stream, and the mode transitions (R241, R242) -/

/-- Settles O38: such a command fails, or makes one write at most, to V or to RK. -/
theorem nonStreamCommandsKeepStream : Obligations.NonStreamCommandsKeepStream := by
  intro i s t h hop
  rcases exec_cases h with ⟨c, -, -, rfl⟩ | ⟨-, hn⟩ | ⟨l, s1, rfl, -⟩ | ⟨l, s1, rfl, -⟩ |
    ⟨l, d, s1, c, rfl, -⟩ | ⟨l, d, s1, c, p, rfl, -⟩ | ⟨rfl, -⟩
  · simp [KeepsStream]
  · exact hn.keepsStream
  all_goals exact absurd hop (by simp [Instr.opcode])

theorem exec_mode_of_error {i : Instr} {s t : State} (h : exec i s = .next t) (herr : t.status.err ≠ .ok) :
    t.status.mode = s.status.mode := by
  rcases exec_cases h with ⟨c, -, -, rfl⟩ | ⟨-, hn⟩ | ⟨l, s1, -, rfl⟩ | ⟨l, s1, -, -, -, rfl⟩ |
    ⟨l, d, s1, c, -, -, rfl⟩ | ⟨l, d, s1, c, p, -, -, rfl⟩ | ⟨-, rfl⟩
  · rfl
  · obtain ⟨hmode, -⟩ := hn.keepsStream
    exact hmode
  all_goals exact absurd rfl herr

/-- The last block is the one at NBLK = 1 (10_state R44). -/
theorem modeWithBlocks_sub_one (m : Mode) (n : Dword) : modeWithBlocks m (n - 1) = if n = 1 then .idle else m := by
  have hiff : n - 1 = 0 ↔ n = 1 := sub_eq_zero
  simp only [modeWithBlocks, hiff]

theorem PortNext.mode {s t : State} (hp : PortNext s t) : t.status.mode = s.status.mode := by cases hp <;> rfl

theorem sequencerTurn_mode {s t : State} (h : sequencerTurnBy exec s = .next t) :
    t.status.mode = s.status.mode ∨ s.status.busy = true ∧ t.status.busy = false ∧ t.status.err = .ok := by
  unfold sequencerTurnBy at h
  split at h
  · next hrun =>
    obtain ⟨c, -, herr, -, hbusy⟩ := runCommand_completes h
    rcases runCommand_cases h with rfl | ⟨i, -, hi⟩
    · exact .inl rfl
    · by_cases hok : t.status.err = .ok
      · exact .inr ⟨(Bool.and_eq_true_iff.mp hrun).2, hbusy, hok⟩
      · exact .inl (exec_mode_of_error hi hok)
  · exact Host.Outcome.next.inj h ▸ .inl rfl

/-- Out of reset only the sequencer's turn can write MODE: STATUS.MODE is read-only at the port, and there is no reset to
release. -/
theorem takeTurn_mode {turn : Turn} {s t : State} (hr : s.rstN = true) (h : takeTurnBy exec turn s = .next t) :
    t.status.mode = s.status.mode ∨ s.status.busy = true ∧ t.status.busy = false ∧ t.status.err = .ok := by
  cases turn with
  | sequencer => exact sequencerTurn_mode h
  | host a =>
    rw [takeTurnBy_host, hostTurn_of_rstN a hr] at h
    exact Host.Outcome.next.inj h ▸ .inl (portAccess_next s a).mode
  | assertReset => exact Host.Outcome.next.inj h ▸ .inl rfl
  | releaseReset =>
    rw [takeTurnBy_releaseReset, releaseTurn_of_rstN hr] at h
    exact Host.Outcome.next.inj h ▸ .inl rfl

/-- Settles O37: a step is one turn, of which only a completion without error writes MODE; and each command's writes give
the mode by the blocks left. -/
theorem modeTransitions : Obligations.ModeTransitions := by
  refine ⟨fun s t hr h hne => ?_, fun i s t h => ⟨exec_mode_of_error h, fun hok => ?_⟩⟩
  · cases hag : s.agenda with
    | nil => exact (sequencerTurn_mode (step_of_agenda_nil hag ▸ h)).resolve_left hne
    | cons turn rest => exact (takeTurn_mode (s := s.withAgenda rest) hr (step_of_agenda_cons hag ▸ h)).resolve_left hne
  · rcases exec_cases h with ⟨c, hc, -, rfl⟩ | ⟨hop, hn⟩ | ⟨l, s1, rfl, rfl⟩ | ⟨l, s1, rfl, h24, h16, rfl⟩ |
      ⟨l, d, s1, c, rfl, hm, rfl⟩ | ⟨l, d, s1, c, p, rfl, hm, rfl⟩ | ⟨rfl, rfl⟩
    · exact absurd hok hc
    · obtain ⟨hmode, -⟩ := hn.keepsStream
      cases i with
      | cbceStart | cbceBlock | cbcdStart | cbcdBlock | cbcAbort => exact absurd hop (by simp [Instr.opcode])
      | _ => exact hmode
    · have hmode := modeWithBlocks_eq_ite .enc (blocksOfLength s.slen)
      rw [toNat_blocksOfLength] at hmode
      simp only [gt_iff_lt, Nat.pos_iff_ne_zero, ne_eq, ite_not]
      exact hmode
    · exact modeWithBlocks_blocksOfFrame .dec h24 h16
    · exact ⟨hm, hm ▸ modeWithBlocks_sub_one s.status.mode s.nblk⟩
    · exact ⟨hm, hm ▸ modeWithBlocks_sub_one s.status.mode s.nblk⟩
    · rfl

end Sys2Proof.Machine

/-! SUPPORT. Proofs of the statements of 44_cbc_stream about whole streams: how a core runs the turns of a host program, the
two loops over the blocks, the frame's bytes, and what the host keeps. -/

namespace Sys2Proof.Machine

/-! ## Running the turns of a host program (20 R92, R95; 30 R122) -/

/-- The core with the ROM contents of p gets from s to t by these turns, whatever turns come after them. -/
def RunsTo (p : Parameters) (turns : List Turn) (s t : State) : Prop :=
  ∀ rest, (coreWith p).run turns.length (s.withAgenda (turns ++ rest)) = .next (t.withAgenda rest)

/-- s is out of reset and executes no command, so the port performs every access. -/
structure State.Ready (s : State) : Prop where
  rstN : s.rstN = true
  busy : s.status.busy = false

theorem run_succ_of_next {M : Host.Core} {s u : M.State} (h : M.step s = .next u) (k : Nat) :
    M.run (k + 1) s = M.run k u := by simp only [Host.Core.run, h]

theorem run_add {M : Host.Core} {j : Nat} {s t : M.State} (h : M.run j s = .next t) (k : Nat) :
    M.run (j + k) s = M.run k t := by
  induction j generalizing s with
  | zero => rw [Nat.zero_add, Host.Outcome.next.inj h]
  | succ j ih =>
    cases hstep : M.step s with
    | next u =>
      rw [run_succ_of_next hstep] at h
      rw [Nat.succ_add, run_succ_of_next hstep]
      exact ih h
    | fault r | refused r => simp [Host.Core.run, hstep] at h

section Programs

variable {p : Parameters} {s t u : State}

theorem RunsTo.nil : RunsTo p [] s s := fun _ => rfl

theorem RunsTo.trans {l m : List Turn} (hl : RunsTo p l s t) (hm : RunsTo p m t u) : RunsTo p (l ++ m) s u := by
  intro rest
  rw [List.length_append, List.append_assoc]
  exact (run_add (hl (m ++ rest)) m.length).trans (hm rest)

theorem RunsTo.of_turn {turn : Turn}
    (h : ∀ rest, takeTurnBy (execWith p.rom) turn (s.withAgenda rest) = .next (t.withAgenda rest)) :
    RunsTo p [turn] s t := by
  intro rest
  have hstep : (coreWith p).step (s.withAgenda (turn :: rest)) = .next (t.withAgenda rest) := h rest
  exact run_succ_of_next hstep 0

/-- A program that is the whole agenda is run to its end. -/
theorem RunsTo.run {turns : List Turn} (h : RunsTo p turns s t) (hag : s.agenda = turns) :
    (coreWith p).run s.agenda.length s = .next (t.withAgenda []) := by
  have hrun := h []
  rw [List.append_nil, ← hag] at hrun
  exact hrun

/-! ### The lines of a program -/

theorem regRead_withAgenda (s : State) (turns : List Turn) (r : WindowReg) :
    (s.withAgenda turns).regRead r = s.regRead r := by cases r <;> rfl

theorem regWrite_withAgenda (s : State) (turns : List Turn) (r : WindowReg) (w : Word) :
    (s.withAgenda turns).regWrite r w = (s.regWrite r w).withAgenda turns := by cases r <;> rfl

theorem runsTo_wr (hs : s.Ready) (off : Byte) (w : Word) : RunsTo p [wr off w] s (s.regWrite (windowReg off) w) :=
  .of_turn fun rest => by
    have ha : (s.withAgenda rest).Ready := ⟨hs.rstN, hs.busy⟩
    rw [wr, takeTurnBy_host, hostTurn_of_rstN _ ha.rstN, State.portAccess, portWrite_of_idle ha.busy, regWrite_withAgenda]

theorem runsTo_rd (hs : s.Ready) (off : Byte) : RunsTo p [rd off] s (s.returnWord (s.regRead (windowReg off))) :=
  .of_turn fun rest => by
    have ha : (s.withAgenda rest).Ready := ⟨hs.rstN, hs.busy⟩
    rw [rd, takeTurnBy_host, hostTurn_of_rstN _ ha.rstN, State.portAccess, portRead_of_idle ha.busy, regRead_withAgenda]
    rfl

/-- The two halves written one after the other are the register (20 R86). -/
theorem setLoWord_setHiWord (x y : Dword) : setLoWord (setHiWord y (hiWord x)) (loWord x) = x := by
  rw [setLoWord, hiWord_setHiWord, dword_of_words]

theorem runsTo_ldSlen (hs : s.Ready) (x : Dword) : RunsTo p (ldSlen x) s (s.writeSlen x) := by
  have hhi : (s.writeSlen (setHiWord s.slen (hiWord x))).Ready := ⟨hs.rstN, hs.busy⟩
  have h : RunsTo p (ldSlen x) s (s.writeSlen (setLoWord (setHiWord s.slen (hiWord x)) (loWord x))) :=
    (runsTo_wr hs offSlenHi (hiWord x)).trans (runsTo_wr hhi offSlenLo (loWord x))
  rwa [setLoWord_setHiWord] at h

theorem runsTo_ldFlen (hs : s.Ready) (x : Dword) : RunsTo p (ldFlen x) s (s.writeFlen x) := by
  have hhi : (s.writeFlen (setHiWord s.flen (hiWord x))).Ready := ⟨hs.rstN, hs.busy⟩
  have h : RunsTo p (ldFlen x) s (s.writeFlen (setLoWord (setHiWord s.flen (hiWord x)) (loWord x))) :=
    (runsTo_wr hs offFlenHi (hiWord x)).trans (runsTo_wr hhi offFlenLo (loWord x))
  rwa [setLoWord_setHiWord] at h

/-- The four words written one after the other are the block (20 R85). -/
theorem setBlockWords (a b : Block) :
    setBlockWord (setBlockWord (setBlockWord (setBlockWord a 0 (blockWord b 0)) 1 (blockWord b 1)) 2 (blockWord b 2)) 3
      (blockWord b 3) = b := by
  refine block_ext fun j hj => ?_
  have hword (k : Fin 4) (hk : j / 4 = k.val) : wordByte (blockWord b k) (j % 4) = blockByte b j := by
    rw [wordByte_blockWord b k (by omega)]
    congr 1
    omega
  simp only [blockByte_setBlockWord _ _ _ hj]
  obtain h | h | h | h : j / 4 = 0 ∨ j / 4 = 1 ∨ j / 4 = 2 ∨ j / 4 = 3 := by omega
  · simpa [h] using hword 0 h
  · simpa [h] using hword 1 h
  · simpa [h] using hword 2 h
  · simpa [h] using hword 3 h

theorem writeV_writeV (s : State) (n : VReg) (a b : Block) : (s.writeV n a).writeV n b = s.writeV n b := by
  simp [State.writeV]

theorem runsTo_wr_v (hs : s.Ready) (n : VReg) (k : Fin 4) (w : Word) :
    RunsTo p [wr (offV n k) w] s (s.writeV n (setBlockWord (s.readV n) k w)) := by
  have h := runsTo_wr (p := p) hs (offV n k) w
  rwa [windowReg_offV] at h

theorem runsTo_ldv (hs : s.Ready) (n : VReg) (b : Block) : RunsTo p (ldv n b) s (s.writeV n b) := by
  have hw (a : Block) : (s.writeV n a).Ready := ⟨hs.rstN, hs.busy⟩
  have next (a : Block) (k : Fin 4) :
      RunsTo p [wr (offV n k) (blockWord b k)] (s.writeV n a) (s.writeV n (setBlockWord a k (blockWord b k))) := by
    have h := runsTo_wr_v (p := p) (hw a) n k (blockWord b k)
    rwa [readV_writeV_same, writeV_writeV] at h
  have h := (((runsTo_wr_v hs n 0 (blockWord b 0)).trans (next _ 1)).trans (next _ 2)).trans (next _ 3)
  rwa [setBlockWords] at h

/-- The port returns these words, the first of the list first. -/
def State.returnWords (s : State) (ws : List Word) : State := { s with reads := ws.reverse ++ s.reads }

@[simp] theorem returnWords_reads (s : State) (ws : List Word) : (s.returnWords ws).reads = ws.reverse ++ s.reads := rfl
@[simp] theorem returnWords_status (s : State) (ws : List Word) : (s.returnWords ws).status = s.status := rfl

theorem runsTo_rd_v (hs : s.Ready) (n : VReg) (k : Fin 4) :
    RunsTo p [rd (offV n k)] s (s.returnWord (blockWord (s.readV n) k)) := by
  have h := runsTo_rd (p := p) hs (offV n k)
  rwa [windowReg_offV] at h

theorem runsTo_stv (hs : s.Ready) (n : VReg) : RunsTo p (stv n) s (s.returnWords (wordsOfBlock (s.readV n))) := by
  have hw {u : State} (hu : u.Ready) (w : Word) : (u.returnWord w).Ready := ⟨hu.rstN, hu.busy⟩
  have h1 := hw hs (blockWord (s.readV n) 0)
  have h2 := hw h1 (blockWord (s.readV n) 1)
  have h3 := hw h2 (blockWord (s.readV n) 2)
  exact (((runsTo_rd_v hs n 0).trans (runsTo_rd_v h1 n 1)).trans (runsTo_rd_v h2 n 2)).trans (runsTo_rd_v h3 n 3)

/-- The CMD write issues the word, which decodes to the command again; then the sequencer completes it. -/
theorem runsTo_commandLine {i : Instr} (hs : s.Ready) (hwf : i.wellFormed = true)
    (hex : ∀ rest, execWith p.rom i ((s.issue (encode i)).withAgenda rest) = .next (t.withAgenda rest)) :
    RunsTo p (commandLine i waitIrq) s t := by
  refine (runsTo_wr hs offCmd (encode i)).trans (.of_turn fun rest => ?_)
  have hx : ((s.issue (encode i)).withAgenda rest).Executing (encode i) := ⟨hs.rstN, rfl, rfl⟩
  have hturn := (sequencerTurnBy_of_busy (execWith p.rom) hx.rstN hx.busy).trans
    (runCommandBy_of_ok (execWith p.rom) (decodeOfEncode i hwf))
  exact hturn.trans (hex rest)

theorem runsTo_commandLine_polling {i : Instr} (h : RunsTo p (commandLine i waitIrq) s t) (ht : t.Ready) :
    RunsTo p (commandLine i (waitPolling 0)) s (t.returnWord t.status.toWord) :=
  h.trans (runsTo_rd ht offStatus)

end Programs

/-! ## The blocks of a stream (R234, R239) -/

@[simp] theorem length_cbcEncrypt (rom : Rom) (rk : Vector Block 10) (c : Block) (ps : List Block) :
    (cbcEncrypt rom rk c ps).length = ps.length := by
  induction ps generalizing c with
  | nil => rfl
  | cons b ps ih => simp [cbcEncrypt, ih]

@[simp] theorem length_cbcDecrypt (rom : Rom) (rk : Vector Block 10) (c : Block) (xs : List Block) :
    (cbcDecrypt rom rk c xs).length = xs.length := by
  induction xs generalizing c with
  | nil => rfl
  | cons x xs ih => simp [cbcDecrypt, ih]

/-- Block k of the list, or the block before the first one: C(k) with C0 = c. -/
def chained (c : Block) (xs : List Block) (k : Nat) : Block := if k = 0 then c else xs.getD (k - 1) 0

@[simp] theorem chained_zero (c : Block) (xs : List Block) : chained c xs 0 = c := rfl

@[simp] theorem chained_cons_succ (c x : Block) (xs : List Block) (k : Nat) :
    chained c (x :: xs) (k + 1) = chained x xs k := by
  cases k <;> rfl

/-- Ck = E(Pk XOR C(k-1), RK) (R234). -/
theorem getElem?_cbcEncrypt {rom : Rom} {rk : Vector Block 10} {c : Block} {ps : List Block} {k : Nat} {b : Block}
    (hk : ps[k]? = some b) :
    (cbcEncrypt rom rk c ps)[k]? = some (encryptBlock rom rk (b ^^^ chained c (cbcEncrypt rom rk c ps) k)) := by
  induction ps generalizing c k with
  | nil => simp at hk
  | cons a ps ih =>
    rw [cbcEncrypt]
    cases k with
    | zero =>
      obtain rfl : a = b := by simpa using hk
      rfl
    | succ k =>
      rw [chained_cons_succ, List.getElem?_cons_succ]
      exact ih (by simpa using hk)

/-- Pk = D(Ck, RK) XOR C(k-1) (R239). -/
theorem getElem?_cbcDecrypt {rom : Rom} {rk : Vector Block 10} {c : Block} {xs : List Block} {k : Nat}
    (hk : k < xs.length) :
    (cbcDecrypt rom rk c xs)[k]? = some (decryptBlock rom rk xs[k] ^^^ chained c xs k) := by
  induction xs generalizing c k with
  | nil => simp at hk
  | cons x xs ih =>
    rw [cbcDecrypt]
    cases k with
    | zero => rfl
    | succ k =>
      rw [chained_cons_succ, List.getElem?_cons_succ]
      exact ih (by simpa using hk)

/-- Decryption with the same IV undoes encryption block by block (R240). -/
theorem cbcDecrypt_cbcEncrypt {rom : Rom} (hrom : rom.WellFormed) (rk : Vector Block 10) (c : Block) (ps : List Block) :
    cbcDecrypt rom rk c (cbcEncrypt rom rk c ps) = ps := by
  induction ps generalizing c with
  | nil => rfl
  | cons b ps ih => rw [cbcEncrypt, cbcDecrypt, decryptBlock_encryptBlock hrom, xor_xor_cancel, ih]

/-! ## The bytes of a frame (R230, R231) -/

/-- The words of a block are its bytes (20 R85). -/
theorem flatMap_wordBytes_wordsOfBlock (b : Block) : (wordsOfBlock b).flatMap wordBytes = blockBytes b := by
  simp only [wordsOfBlock, wordBytes, List.flatMap_cons, List.flatMap_nil, wordByte_blockWord b _ (show 0 < 4 by decide),
    wordByte_blockWord b _ (show 1 < 4 by decide), wordByte_blockWord b _ (show 2 < 4 by decide),
    wordByte_blockWord b _ (show 3 < 4 by decide)]
  rfl

/-- A field of a field of x is a field of x. -/
theorem extractLsb'_of_extractLsb' {w a n b m : Nat} (x : BitVec w) (h : b + m ≤ n) :
    (x.extractLsb' a n).extractLsb' b m = x.extractLsb' (a + b) m := by
  apply BitVec.eq_of_getLsbD_eq
  intro i hi
  have hbi : b + i < n := by omega
  simp [hi, hbi, Nat.add_assoc]

theorem wordByte_hiWord (x : Dword) {m : Nat} (hm : m < 4) : wordByte (hiWord x) m = x.extractLsb' (56 - 8 * m) 8 := by
  rw [wordByte, hiWord, extractLsb'_of_extractLsb' x (by omega), show 32 + 8 * (3 - m) = 56 - 8 * m by omega]

theorem wordByte_loWord (x : Dword) {m : Nat} (hm : m < 4) : wordByte (loWord x) m = x.extractLsb' (24 - 8 * m) 8 := by
  rw [wordByte, loWord, extractLsb'_of_extractLsb' x (by omega), show 0 + 8 * (3 - m) = 24 - 8 * m by omega]

/-- SLEN_HI's bytes and SLEN_LO's are the frame's length field. -/
theorem flatMap_wordBytes_slen (x : Dword) : [hiWord x, loWord x].flatMap wordBytes = lengthBytes x := by
  simp only [wordBytes, List.flatMap_cons, List.flatMap_nil, wordByte_hiWord x (show 0 < 4 by decide),
    wordByte_hiWord x (show 1 < 4 by decide), wordByte_hiWord x (show 2 < 4 by decide),
    wordByte_hiWord x (show 3 < 4 by decide), wordByte_loWord x (show 0 < 4 by decide),
    wordByte_loWord x (show 1 < 4 by decide), wordByte_loWord x (show 2 < 4 by decide),
    wordByte_loWord x (show 3 < 4 by decide)]
  rfl

theorem length_flatMap_blockBytes (bs : List Block) : (bs.flatMap blockBytes).length = 16 * bs.length := by
  simp [List.length_flatMap, Nat.mul_comm]

theorem getElem?_blockBytes (b : Block) {j : Nat} (hj : j < 16) : (blockBytes b)[j]? = some (blockByte b j) := by
  simp [blockBytes, hj]

theorem getElem?_flatMap_blockBytes {bs : List Block} {k : Nat} {b : Block} (hk : bs[k]? = some b) {j : Nat}
    (hj : j < 16) : (bs.flatMap blockBytes)[16 * k + j]? = some (blockByte b j) := by
  induction bs generalizing k with
  | nil => simp at hk
  | cons a bs ih =>
    rw [List.flatMap_cons]
    cases k with
    | zero =>
      obtain rfl : a = b := by simpa using hk
      rw [List.getElem?_append_left (by rw [length_blockBytes]; omega), Nat.mul_zero, Nat.zero_add,
        getElem?_blockBytes a hj]
    | succ k =>
      rw [List.getElem?_append_right (by rw [length_blockBytes]; omega), length_blockBytes,
        show 16 * (k + 1) + j - 16 = 16 * k + j by omega]
      exact ih (by simpa using hk)

theorem frameLayout_frameBytes (slen : Dword) (iv : Block) (cs : List Block) :
    FrameLayout (frameBytes slen iv cs) slen iv cs := by
  have hhead : (lengthBytes slen ++ blockBytes iv).length = 24 := by simp
  refine ⟨?_, fun i hi => ?_, fun j hj => ?_, fun k c hk j hj => ?_⟩
  · rw [frameBytes, List.length_append, hhead, length_flatMap_blockBytes]
  · rw [frameBytes, List.append_assoc, List.getElem?_append_left (by simpa using hi)]
    simp [lengthBytes, hi]
  · rw [frameBytes, List.getElem?_append_left (by rw [hhead]; omega), List.getElem?_append_right (by simp),
      length_lengthBytes, Nat.add_sub_cancel_left, getElem?_blockBytes iv hj]
  · rw [frameBytes, List.getElem?_append_right (by rw [hhead]; omega), hhead,
      show 24 + 16 * k + j - 24 = 16 * k + j by omega]
    exact getElem?_flatMap_blockBytes hk hj

/-! ### Reading a frame back -/

section Layout

variable {frame : List Byte} {slen : Dword} {iv : Block} {cs : List Block}

theorem frameBlock_eq {b : Block} {off : Nat} (h : ∀ j < 16, frame[off + j]? = some (blockByte b j)) :
    frameBlock frame off = b := by
  refine block_ext fun j hj => ?_
  rw [frameBlock, blockByte_blockOfBytes _ hj, List.getD_eq_getElem?_getD, h j hj, Option.getD_some]

/-- A 64-bit register is its eight bytes, the most significant first. -/
theorem dword_of_bytes (x : Dword) :
    x.extractLsb' 56 8 ++ x.extractLsb' 48 8 ++ x.extractLsb' 40 8 ++ x.extractLsb' 32 8 ++ x.extractLsb' 24 8 ++
      x.extractLsb' 16 8 ++ x.extractLsb' 8 8 ++ x.extractLsb' 0 8 = x := by
  have hx := x.isLt
  apply BitVec.eq_of_toNat_eq
  simp only [toNat_append_eq_add, BitVec.extractLsb'_toNat, Nat.shiftRight_eq_div_pow]
  omega

namespace FrameLayout

variable (h : FrameLayout frame slen iv cs)
include h

theorem length_eq : frame.length = 24 + 16 * cs.length := by
  obtain ⟨hlen, -⟩ := h
  exact hlen

theorem frameSlen_eq : frameSlen frame = slen := by
  obtain ⟨-, hbytes, -⟩ := h
  have hd (i : Nat) (hi : i < 8) : frame.getD i 0 = slen.extractLsb' (56 - 8 * i) 8 := by
    rw [List.getD_eq_getElem?_getD, hbytes i hi, Option.getD_some]
  simp only [frameSlen, hd 0 (by decide), hd 1 (by decide), hd 2 (by decide), hd 3 (by decide), hd 4 (by decide),
    hd 5 (by decide), hd 6 (by decide), hd 7 (by decide)]
  exact dword_of_bytes slen

theorem frameIv_eq : frameIv frame = iv := by
  obtain ⟨-, -, hiv, -⟩ := h
  exact frameBlock_eq hiv

theorem frameLengthOk_eq : frameLengthOk frame.length = true := by
  simp [frameLengthOk, h.length_eq]

theorem frameBlocks_eq : frameBlocks frame = cs := by
  rw [frameBlocks, if_pos h.frameLengthOk_eq]
  have hlen := h.length_eq
  obtain ⟨-, -, -, hblocks⟩ := h
  have hcount : (frame.length - 24) / 16 = cs.length := by omega
  rw [hcount]
  refine List.ext_getElem (by simp) fun k hk hk' => ?_
  rw [List.getElem_map, List.getElem_range]
  exact frameBlock_eq (hblocks k cs[k] (List.getElem?_eq_getElem hk'))

end FrameLayout

end Layout

/-! ## What the host keeps (R239, R244) -/

/-- VALID of n blocks, r bytes being left before the first of them: min(16, r - 16 (k - 1)) for block k (R237). -/
def validCounts (r n : Nat) : List Nat := (List.range n).map fun k => min 16 (r - 16 * k)

theorem validCounts_succ (r n : Nat) : validCounts r (n + 1) = min 16 r :: validCounts (r - 16) n := by
  have hsub (k : Nat) : r - 16 * (k + 1) = r - 16 - 16 * k := by omega
  simp [validCounts, List.range_succ_eq_map, Function.comp_def, hsub]

/-- The last block's VALID; v where there is no block. -/
theorem getLastD_validCounts (r n v : Nat) :
    (validCounts r n).getLastD v = if n = 0 then v else min 16 (r - 16 * (n - 1)) := by
  cases n with
  | zero => rfl
  | succ n => simp [validCounts, List.range_succ]

theorem keptBytes_loopReads {sts : List Word} {ps : List Block} {r : Nat}
    (h : sts.map statusValid = validCounts r ps.length) :
    keptBytes (loopReads sts ps) = (ps.flatMap blockBytes).take r := by
  induction ps generalizing sts r with
  | nil =>
    obtain rfl : sts = [] := by simpa [validCounts] using h
    exact List.take_nil.symm
  | cons b ps ih =>
    rw [List.length_cons, validCounts_succ] at h
    obtain ⟨st, sts, rfl, hst, hsts⟩ := List.map_eq_cons_iff.mp h
    have hkept : keptBytes (loopReads (st :: sts) (b :: ps)) =
        ((wordsOfBlock b).flatMap wordBytes).take (statusValid st) ++ keptBytes (loopReads sts ps) := rfl
    rw [hkept, flatMap_wordBytes_wordsOfBlock, hst, ih hsts, List.flatMap_cons, List.take_append, length_blockBytes]
    congr 1
    exact List.take_eq_take_iff.mpr (by rw [length_blockBytes]; omega)

/-! ## The loop over the blocks of a stream -/

/-- s is ready, and n blocks are left of a stream of mode m (10_state R44). -/
structure State.InStream (m : Mode) (n : Nat) (s : State) : Prop where
  ready : s.Ready
  nblk : s.nblk.toNat = n
  mode : s.status.mode = if n = 0 then .idle else m

section Loops

variable {p : Parameters} {s : State} {m : Mode} {n : Nat}

theorem ready_complete {c : ErrCode} (hr : s.rstN = true) : (s.complete c).Ready := ⟨hr, rfl⟩

theorem ready_returnWord {w : Word} (hs : s.Ready) : (s.returnWord w).Ready := ⟨hs.rstN, hs.busy⟩

theorem State.InStream.mode_of_succ (hs : s.InStream m (n + 1)) : s.status.mode = m := hs.mode

/-- A block command's bookkeeping leaves one block less (R233, R237). -/
theorem State.InStream.next {t : State} (hs : s.InStream m (n + 1)) (ht : t.Ready) (hnblk : t.nblk = s.nblk - 1)
    (hmode : t.status.mode = modeWithBlocks s.status.mode (s.nblk - 1)) : t.InStream m n := by
  have hone : (1 : Dword).toNat ≤ s.nblk.toNat := by
    rw [hs.nblk]
    exact Nat.le_add_left 1 n
  have hn : (s.nblk - 1).toNat = n := by
    rw [BitVec.toNat_sub_of_le hone, hs.nblk]
    rfl
  refine ⟨ht, hnblk ▸ hn, ?_⟩
  rw [hmode, modeWithBlocks_eq_ite, hn, hs.mode_of_succ]

theorem State.InStream.nblk_zero {t : State} (ht : t.InStream m 0) : t.nblk = 0 := BitVec.eq_of_toNat_eq ht.nblk

theorem execWith_cbceBlock_of_enc (rom : Rom) (d s1 : VReg) (s : State) (hm : s.status.mode = .enc) :
    execWith rom (.cbceBlock 16 d s1) s =
      .next ((cbceBlockWrites d (encryptBlock rom s.rk (s.readV s1 ^^^ s.fb)) s).complete .ok) := by
  rw [execWith_cbceBlock]
  exact (withBlockLen_of_eq rfl _ _).trans (withMode_of_eq hm _)

theorem runsTo_cbceBlock (hs : s.Ready) (hm : s.status.mode = .enc) (d s1 : VReg) :
    RunsTo p (commandLine (.cbceBlock 16 d s1) waitIrq) s
      ((cbceBlockWrites d (encryptBlock p.rom s.rk (s.readV s1 ^^^ s.fb))
        (s.issue (encode (.cbceBlock 16 d s1)))).complete .ok) :=
  runsTo_commandLine hs rfl fun rest =>
    execWith_cbceBlock_of_enc p.rom d s1 ((s.issue (encode (.cbceBlock 16 d s1))).withAgenda rest) hm

theorem readV_cbceBlockWrites_same (d : VReg) (c : Block) (s : State) : (cbceBlockWrites d c s).readV d = c :=
  readV_writeV_same s d c

theorem runsTo_encryptBlock (hs : s.InStream .enc (n + 1)) (b : Block) :
    ∃ t, RunsTo p (encryptBlockTurns b) s t ∧ t.InStream .enc n ∧ t.rk = s.rk ∧ t.slen = s.slen ∧
      t.fb = encryptBlock p.rom s.rk (b ^^^ s.fb) ∧ t.reads = readLog [t.fb] ++ s.reads := by
  have hw : (s.writeV 0 b).Ready := ⟨hs.ready.rstN, hs.ready.busy⟩
  have hcmd := runsTo_cbceBlock (p := p) hw hs.mode_of_succ 1 0
  rw [readV_writeV_same] at hcmd
  refine ⟨_, ((runsTo_ldv hs.ready 0 b).trans hcmd).trans (runsTo_stv ?_ 1),
    hs.next ⟨hs.ready.rstN, rfl⟩ rfl rfl, rfl, rfl, rfl, ?_⟩
  · exact ready_complete hs.ready.rstN
  · rw [readV_complete, readV_cbceBlockWrites_same]
    rfl

theorem runsTo_encryptBlocks (ps : List Block) (hs : s.InStream .enc ps.length) :
    ∃ t, RunsTo p (ps.flatMap encryptBlockTurns) s t ∧ t.InStream .enc 0 ∧ t.rk = s.rk ∧ t.slen = s.slen ∧
      t.reads = readLog (cbcEncrypt p.rom s.rk s.fb ps) ++ s.reads := by
  induction ps generalizing s with
  | nil => exact ⟨s, .nil, hs, rfl, rfl, rfl⟩
  | cons b ps ih =>
    obtain ⟨u, hrun, hu, hrk, hslen, hfb, hreads⟩ := runsTo_encryptBlock (p := p) hs b
    obtain ⟨t, hrun', ht, hrk', hslen', hreads'⟩ := ih hu
    refine ⟨t, hrun.trans hrun', ht, hrk'.trans hrk, hslen'.trans hslen, ?_⟩
    rw [hreads', hreads, hrk, hfb, cbcEncrypt]
    simp [readLog]

/-- From s to t a host has decrypted the blocks cs, the rest of the stream, and has read the STATUS words sts and the
plaintext (R239). -/
structure DecryptedBlocks (p : Parameters) (cs : List Block) (sts : List Word) (s t : State) : Prop where
  stream : t.InStream .dec 0
  rk : t.rk = s.rk
  remain : t.remain.toNat = s.remain.toNat - 16 * cs.length
  counts : sts.map statusValid = validCounts s.remain.toNat cs.length
  valid : t.status.valid.toNat = (validCounts s.remain.toNat cs.length).getLastD s.status.valid.toNat
  reads : t.reads = (loopReads sts (cbcDecrypt p.rom s.rk s.fb cs)).reverse ++ s.reads

theorem statusValid_toWord (st : Status) : statusValid st.toWord = st.valid.toNat := by
  have hmode : st.mode.code.toNat < 2 ^ 2 := st.mode.code.isLt
  have hvalid := st.valid.isLt
  have hbusy := st.busy.toNat_le
  have hdone := st.done.toNat_le
  have hwovr := st.wovr.toNat_le
  rw [statusValid, BitVec.extractLsb'_toNat, toNat_toWord, Nat.shiftRight_eq_div_pow]
  omega

theorem statusErr_toWord (st : Status) : statusErr st.toWord = st.err.code := by
  have hmode : st.mode.code.toNat < 2 ^ 2 := st.mode.code.isLt
  have hvalid := st.valid.isLt
  have herr := st.err.code.isLt
  have hbusy := st.busy.toNat_le
  have hdone := st.done.toNat_le
  have hwovr := st.wovr.toNat_le
  apply BitVec.eq_of_toNat_eq
  rw [statusErr, BitVec.extractLsb'_toNat, toNat_toWord, Nat.shiftRight_eq_div_pow]
  omega

theorem execWith_cbcdBlock_of_dec (rom : Rom) (d s1 : VReg) (s : State) (hm : s.status.mode = .dec) :
    execWith rom (.cbcdBlock 16 d s1) s =
      .next ((cbcdBlockWrites d (s.readV s1) (decryptBlock rom s.rk (s.readV s1) ^^^ s.fb) s).complete .ok) := by
  rw [execWith_cbcdBlock]
  exact (withBlockLen_of_eq rfl _ _).trans (withMode_of_eq hm _)

theorem runsTo_cbcdBlock (hs : s.Ready) (hm : s.status.mode = .dec) (d s1 : VReg) :
    RunsTo p (commandLine (.cbcdBlock 16 d s1) waitIrq) s
      ((cbcdBlockWrites d (s.readV s1) (decryptBlock p.rom s.rk (s.readV s1) ^^^ s.fb)
        (s.issue (encode (.cbcdBlock 16 d s1)))).complete .ok) :=
  runsTo_commandLine hs rfl fun rest =>
    execWith_cbcdBlock_of_dec p.rom d s1 ((s.issue (encode (.cbcdBlock 16 d s1))).withAgenda rest) hm

theorem readV_cbcdBlockWrites_same (d : VReg) (c b : Block) (s : State) : (cbcdBlockWrites d c b s).readV d = b :=
  readV_writeV_same s d b

/-- A block takes 16 bytes off REMAIN, or what is left of it (R237). -/
theorem toNat_sub_validCount_eq_sub (remain : Dword) :
    (remain - (validCount remain).setWidth 64).toNat = remain.toNat - 16 := by
  rw [toNat_sub_validCount]
  omega

theorem runsTo_decryptBlock (hs : s.InStream .dec (n + 1)) (c : Block) :
    ∃ t, RunsTo p (decryptBlockTurns c) s t ∧ t.InStream .dec n ∧ t.rk = s.rk ∧ t.fb = c ∧
      t.remain.toNat = s.remain.toNat - 16 ∧ t.status.valid.toNat = min 16 s.remain.toNat ∧
      t.reads = (t.status.toWord :: wordsOfBlock (decryptBlock p.rom s.rk c ^^^ s.fb)).reverse ++ s.reads := by
  have hw : (s.writeV 0 c).Ready := ⟨hs.ready.rstN, hs.ready.busy⟩
  have hcmd := runsTo_cbcdBlock (p := p) hw hs.mode_of_succ 1 0
  have hpoll := runsTo_commandLine_polling hcmd (ready_complete hs.ready.rstN)
  rw [readV_writeV_same] at hpoll
  refine ⟨_, ((runsTo_ldv hs.ready 0 c).trans hpoll).trans (runsTo_stv ?_ 1),
    hs.next ⟨hs.ready.rstN, rfl⟩ rfl rfl, rfl, rfl, toNat_sub_validCount_eq_sub s.remain, toNat_validCount s.remain, ?_⟩
  · exact ready_returnWord (ready_complete hs.ready.rstN)
  · rw [readV_returnWord, readV_complete, readV_cbcdBlockWrites_same]
    simp [cbcdBlockWrites]

theorem runsTo_decryptBlocks (cs : List Block) (hs : s.InStream .dec cs.length) :
    ∃ t sts, RunsTo p (cs.flatMap decryptBlockTurns) s t ∧ DecryptedBlocks p cs sts s t := by
  induction cs generalizing s with
  | nil => exact ⟨s, [], .nil, hs, rfl, rfl, rfl, rfl, rfl⟩
  | cons c cs ih =>
    obtain ⟨u, hrun, hu, hrk, hfb, hremain, hvalid, hreads⟩ := runsTo_decryptBlock (p := p) hs c
    obtain ⟨t, sts, hrun', hd⟩ := ih hu
    refine ⟨t, u.status.toWord :: sts, hrun.trans hrun', hd.stream, hd.rk.trans hrk, ?_, ?_, ?_, ?_⟩
    · rw [hd.remain, hremain, List.length_cons]
      omega
    · rw [List.map_cons, statusValid_toWord, hvalid, hd.counts, hremain, List.length_cons, validCounts_succ]
    · rw [hd.valid, hvalid, hremain, List.length_cons, validCounts_succ, List.getLastD_cons]
    · rw [hd.reads, hreads, hrk, hfb, cbcDecrypt]
      simp [loopReads]

/-! ## The host programs (R234, R239) -/

theorem runsTo_cbceStart (hs : s.Ready) (s1 : VReg) :
    RunsTo p (commandLine (.cbceStart 16 s1) waitIrq) s
      (((s.issue (encode (.cbceStart 16 s1))).openStream .enc (s.readV s1) (blocksOfLength s.slen)).complete .ok) :=
  runsTo_commandLine hs rfl fun rest => withBlockLen_of_eq rfl ((s.issue (encode (.cbceStart 16 s1))).withAgenda rest) _

/-- A START leaves the stream's n blocks to do (R232, R236). -/
theorem inStream_openStream (hr : s.rstN = true) (m : Mode) (iv : Block) {x : Dword} (hx : x.toNat = n) :
    ((s.openStream m iv x).complete .ok).InStream m n :=
  ⟨ready_complete hr, hx, hx ▸ modeWithBlocks_eq_ite m x⟩

theorem runsTo_encryptStream (hs : s.Ready) {slen : Dword} (iv : Block) {ps : List Block}
    (hlen : ps.length = (slen.toNat + 15) / 16) :
    ∃ t, RunsTo p (encryptStreamTurns slen iv ps) s t ∧ t.InStream .enc 0 ∧ t.rk = s.rk ∧ t.slen = slen ∧
      t.reads = readLog (cbcEncrypt p.rom s.rk iv ps) ++ s.reads := by
  have hl : (s.writeSlen slen).Ready := ⟨hs.rstN, hs.busy⟩
  have hw : ((s.writeSlen slen).writeV 7 iv).Ready := ⟨hs.rstN, hs.busy⟩
  have hcmd := runsTo_cbceStart (p := p) hw 7
  rw [readV_writeV_same] at hcmd
  have hu := inStream_openStream (s := ((s.writeSlen slen).writeV 7 iv).issue (encode (.cbceStart 16 7))) hs.rstN .enc iv
    ((toNat_blocksOfLength slen).trans hlen.symm)
  obtain ⟨t, hrun, ht, hrk, hslen, hreads⟩ := runsTo_encryptBlocks (p := p) ps hu
  exact ⟨t, (((runsTo_ldSlen hs slen).trans (runsTo_ldv hl 7 iv)).trans hcmd).trans hrun, ht, hrk, hslen, hreads⟩

end Loops

section Decryption

variable {p : Parameters} {s : State} {frame : List Byte}

theorem execWith_cbcdStart (rom : Rom) (s1 : VReg) (s : State) : execWith rom (.cbcdStart 16 s1) s =
    withFrame s.flen s (.next ((s.openStream .dec (s.readV s1) (blocksOfFrame s.flen)).complete .ok)) :=
  withBlockLen_of_eq rfl s _

theorem runsTo_cbcdStart_of_short (hs : s.Ready) (hflen : s.flen.toNat < 24) (s1 : VReg) :
    RunsTo p (commandLine (.cbcdStart 16 s1) waitIrq) s
      ((s.issue (encode (.cbcdStart 16 s1))).complete .frameTooShort) :=
  runsTo_commandLine hs rfl fun _ => (execWith_cbcdStart _ _ _).trans (withFrame_of_short hflen _ _)

theorem runsTo_cbcdStart_of_truncated (hs : s.Ready) (h24 : 24 ≤ s.flen.toNat) (h16 : (s.flen.toNat - 24) % 16 ≠ 0)
    (s1 : VReg) :
    RunsTo p (commandLine (.cbcdStart 16 s1) waitIrq) s
      ((s.issue (encode (.cbcdStart 16 s1))).complete .truncatedCiphertext) :=
  runsTo_commandLine hs rfl fun _ => (execWith_cbcdStart _ _ _).trans (withFrame_of_truncated h24 h16 _ _)

theorem runsTo_cbcdStart_of_ok (hs : s.Ready) (h24 : 24 ≤ s.flen.toNat) (h16 : (s.flen.toNat - 24) % 16 = 0)
    (s1 : VReg) :
    RunsTo p (commandLine (.cbcdStart 16 s1) waitIrq) s
      (((s.issue (encode (.cbcdStart 16 s1))).openStream .dec (s.readV s1) (blocksOfFrame s.flen)).complete .ok) :=
  runsTo_commandLine hs rfl fun _ => (execWith_cbcdStart _ _ _).trans (withFrame_of_ok h24 h16 _ _)

/-- The core with a frame's length, length field and IV loaded (R239). -/
def State.loadFrame (s : State) (frame : List Byte) : State :=
  ((s.writeFlen (BitVec.ofNat 64 frame.length)).writeSlen (frameSlen frame)).writeV 7 (frameIv frame)

theorem ready_loadFrame (hs : s.Ready) : (s.loadFrame frame).Ready := ⟨hs.rstN, hs.busy⟩

theorem toNat_flen_loadFrame (hlt : frame.length < 2 ^ 64) : (s.loadFrame frame).flen.toNat = frame.length :=
  Nat.mod_eq_of_lt hlt

theorem readV_loadFrame : (s.loadFrame frame).readV 7 = frameIv frame := readV_writeV_same _ 7 _

theorem runsTo_loadFrame (hs : s.Ready) :
    RunsTo p (ldFlen (BitVec.ofNat 64 frame.length) ++ ldSlen (frameSlen frame) ++ ldv 7 (frameIv frame)) s
      (s.loadFrame frame) := by
  have h1 : (s.writeFlen (BitVec.ofNat 64 frame.length)).Ready := ⟨hs.rstN, hs.busy⟩
  have h2 : ((s.writeFlen (BitVec.ofNat 64 frame.length)).writeSlen (frameSlen frame)).Ready := ⟨hs.rstN, hs.busy⟩
  exact ((runsTo_ldFlen hs _).trans (runsTo_ldSlen h1 _)).trans (runsTo_ldv h2 7 _)

theorem frameLengthOk_iff (n : Nat) : frameLengthOk n = true ↔ 24 ≤ n ∧ (n - 24) % 16 = 0 := by
  simp [frameLengthOk]

/-- A frame of a wrong length: CBCD_START fails, the host reads its ERR, and there the program ends. -/
theorem runsTo_decryptStream_of_error (hs : s.Ready) (hlt : frame.length < 2 ^ 64)
    (hbad : frameLengthOk frame.length = false) :
    ∃ t st, RunsTo p (decryptStreamTurns frame) s t ∧ t.rk = s.rk ∧ t.reads = st :: s.reads ∧
      statusErr st = if frame.length < 24 then 3 else 4 := by
  have hw : (s.loadFrame frame).Ready := ready_loadFrame hs
  have hflen := toNat_flen_loadFrame (s := s) hlt
  have hnot : ¬ (24 ≤ frame.length ∧ (frame.length - 24) % 16 = 0) := by simp [← frameLengthOk_iff, hbad]
  obtain ⟨c, hcmd, hcode⟩ : ∃ c, RunsTo p (commandLine (.cbcdStart 16 7) waitIrq) (s.loadFrame frame)
      (((s.loadFrame frame).issue (encode (.cbcdStart 16 7))).complete c) ∧
        c.code = if frame.length < 24 then 3 else 4 := by
    by_cases hshort : frame.length < 24
    · exact ⟨_, runsTo_cbcdStart_of_short hw (by omega) 7, (if_pos hshort).symm⟩
    · exact ⟨_, runsTo_cbcdStart_of_truncated hw (by omega) (by omega) 7, (if_neg hshort).symm⟩
  have hpoll := runsTo_commandLine_polling hcmd (ready_complete hs.rstN)
  have hrun := (runsTo_loadFrame hs).trans hpoll
  have hblocks : frameBlocks frame = [] := by simp [frameBlocks, hbad]
  rw [decryptStreamTurns, hblocks, List.flatMap_nil, List.append_nil]
  exact ⟨_, _, hrun, rfl, rfl, (statusErr_toWord _).trans hcode⟩

theorem length_frameBlocks (hok : frameLengthOk frame.length = true) :
    (frameBlocks frame).length = (frame.length - 24) / 16 := by simp [frameBlocks, hok]

theorem getElem?_frameBlocks {k : Nat} (hk : k < (frameBlocks frame).length) :
    (frameBlocks frame)[k]? = some (frameBlock frame (24 + 16 * k)) := by
  rw [List.getElem?_eq_getElem hk]
  unfold frameBlocks at hk ⊢
  split_ifs at hk ⊢
  · simp
  · simp at hk

theorem chained_frameBlocks {k : Nat} (hk : k < (frameBlocks frame).length) :
    chained (frameIv frame) (frameBlocks frame) k =
      if k = 0 then frameIv frame else frameBlock frame (24 + 16 * (k - 1)) := by
  rw [chained, List.getD_eq_getElem?_getD, getElem?_frameBlocks (by omega), Option.getD_some]

/-- A frame of a right length: CBCD_START opens its stream in a state u, where the host reads ERR = 0, and its blocks are
decrypted from there. -/
theorem runsTo_decryptStream_of_ok (hs : s.Ready) (hlt : frame.length < 2 ^ 64)
    (hok : frameLengthOk frame.length = true) :
    ∃ u t sts, RunsTo p (decryptStreamTurns frame) s t ∧ DecryptedBlocks p (frameBlocks frame) sts u t ∧
      u.rk = s.rk ∧ u.fb = frameIv frame ∧ u.remain = frameSlen frame ∧ u.status.err = .ok ∧
      u.reads = u.status.toWord :: s.reads := by
  have hw : (s.loadFrame frame).Ready := ready_loadFrame hs
  obtain ⟨h24, h16⟩ := (frameLengthOk_iff _).mp hok
  rw [← toNat_flen_loadFrame (s := s) hlt] at h24 h16
  have hcmd := runsTo_cbcdStart_of_ok (p := p) hw h24 h16 7
  rw [readV_loadFrame] at hcmd
  have hnblk : (blocksOfFrame (s.loadFrame frame).flen).toNat = (frameBlocks frame).length := by
    rw [toNat_blocksOfFrame _ h24, toNat_flen_loadFrame hlt, length_frameBlocks hok]
  have hu := inStream_openStream (s := (s.loadFrame frame).issue (encode (.cbcdStart 16 7))) hs.rstN .dec
    (frameIv frame) hnblk
  have hpoll := runsTo_commandLine_polling hcmd hu.ready
  obtain ⟨t, sts, hrun, hd⟩ := runsTo_decryptBlocks (p := p) (frameBlocks frame)
    ⟨ready_returnWord hu.ready, hu.nblk, hu.mode⟩
  exact ⟨_, t, sts, ((runsTo_loadFrame hs).trans hpoll).trans hrun, hd, rfl, rfl, rfl, rfl, rfl⟩

end Decryption

/-! ## Whole streams -/

theorem stepWith_default : stepWith Config.rom = step := by
  have hexec : execWith Config.rom = exec := funext₂ fun i s => (exec_eq_execWith i s).symm
  funext s
  rw [stepWith, hexec, step]

/-- The core runs as the machine with parameters does at the default ROM contents (00_scope R13). -/
theorem core_run_eq : (core.run : Runs) = (coreWith ⟨Config.rom, rom_wellFormed⟩).run := by
  change (Host.Core.mk State Fault Refusal step State.reset).run = _
  rw [← stepWith_default]
  rfl

/-- The bytes the host assembles are the frame: SLEN's words, the IV's, and the ciphertext's as read (R231, R234). -/
theorem frameBytes_eq_flatMap_wordBytes (slen : Dword) (iv : Block) (cs : List Block) :
    ([hiWord slen, loWord slen] ++ wordsOfBlock iv ++ cs.flatMap wordsOfBlock).flatMap wordBytes =
      frameBytes slen iv cs := by
  rw [List.flatMap_append, List.flatMap_append, flatMap_wordBytes_slen, flatMap_wordBytes_wordsOfBlock,
    List.flatMap_assoc]
  simp only [flatMap_wordBytes_wordsOfBlock]
  rfl

theorem length_readLog (bs : List Block) : (readLog bs).length = 4 * bs.length := by
  simp [readLog, List.length_flatMap, Nat.mul_comm]

/-- The host program of R234, on the core with any permitted ROM contents. -/
theorem encryptsStreams (p : Parameters) : EncryptsStreams (coreWith p).run p.rom := by
  intro s slen iv ps hr hb hag hlen
  obtain ⟨t, hrun, hstream, hrk, hslen, hreads⟩ := runsTo_encryptStream (p := p) ⟨hr, hb⟩ iv hlen
  refine ⟨t.withAgenda [], cbcEncrypt p.rom s.rk iv ps, encryptStream p.rom s.rk slen iv ps, hrun.run hag,
    length_cbcEncrypt .., fun k b hk => getElem?_cbcEncrypt hk, hreads, hslen, hstream.mode, hstream.nblk_zero, hrk, ?_,
    rfl, frameLayout_frameBytes slen iv _⟩
  have hlog : (t.reads.take (4 * ps.length)).reverse = (cbcEncrypt p.rom s.rk iv ps).flatMap wordsOfBlock := by
    rw [hreads, List.take_left' (by rw [length_readLog, length_cbcEncrypt]), readLog, List.reverse_reverse]
  have hframe := frameBytes_eq_flatMap_wordBytes slen iv (cbcEncrypt p.rom s.rk iv ps)
  rw [← hlog, ← hslen] at hframe
  rw [← hslen]
  exact hframe.symm

/-- Settles O39: the host program's steps, with the loop by induction on the blocks. -/
theorem streamEncryption : Obligations.StreamEncryption :=
  ⟨core_run_eq ▸ encryptsStreams ⟨Config.rom, rom_wellFormed⟩, encryptsStreams⟩

theorem length_of_validCounts {sts : List Word} {r n : Nat} (h : sts.map statusValid = validCounts r n) :
    sts.length = n := by
  simpa [validCounts] using congrArg List.length h

theorem statusValid_of_validCounts {sts : List Word} {r n k : Nat} {x : Word}
    (h : sts.map statusValid = validCounts r n) (hk : sts[k]? = some x) : statusValid x = min 16 (r - 16 * k) := by
  have hx : (validCounts r n)[k]? = some (statusValid x) := by rw [← h, List.getElem?_map, hk, Option.map_some]
  obtain ⟨_, hv⟩ := List.getElem?_eq_some_iff.mp hx
  simpa [validCounts] using hv.symm

/-- The host program of R239, on the core with any permitted ROM contents. -/
theorem decryptsStreams (p : Parameters) : DecryptsStreams (coreWith p).run p.rom := by
  intro s frame hr hb hag hlt
  cases hok : frameLengthOk frame.length with
  | false =>
    obtain ⟨t, st, hrun, hrk, hreads, herr⟩ := runsTo_decryptStream_of_error (p := p) ⟨hr, hb⟩ hlt hok
    exact ⟨t.withAgenda [], st, hrun.run hag, hrk, fun _ => ⟨hreads, herr⟩, nofun⟩
  | true =>
    obtain ⟨u, t, sts, hrun, hd, hrk, hfb, hremain, herr, hreads⟩ :=
      runsTo_decryptStream_of_ok (p := p) ⟨hr, hb⟩ hlt hok
    have hcounts := hd.counts
    have hloop := hd.reads
    have hleft := hd.remain
    rw [hremain] at hcounts hleft
    rw [hrk, hfb, hreads] at hloop
    have hlen : (cbcDecrypt p.rom s.rk (frameIv frame) (frameBlocks frame)).length = (frameBlocks frame).length :=
      length_cbcDecrypt ..
    have hkept := keptBytes_loopReads (hlen ▸ hcounts)
    refine ⟨t.withAgenda [], u.status.toWord, hrun.run hag, hd.rk.trans hrk, nofun, fun _ =>
      ⟨cbcDecrypt p.rom s.rk (frameIv frame) (frameBlocks frame), sts, hlen.trans (length_frameBlocks hok),
        (length_of_validCounts hcounts).trans hlen.symm, ?_, ?_, fun k b hk => ?_,
        fun k x hk => statusValid_of_validCounts hcounts hk, ?_, hkept, hd.stream.mode, hd.stream.nblk_zero,
        hlen ▸ hleft⟩⟩
    · simpa using hloop
    · rw [statusErr_toWord, herr]
      rfl
    · have hlt' : k < (frameBlocks frame).length := hlen ▸ (List.getElem?_eq_some_iff.mp hk).1
      have hx := (List.getElem?_eq_getElem hlt').symm.trans (getElem?_frameBlocks hlt')
      rw [getElem?_cbcDecrypt hlt', chained_frameBlocks hlt', Option.some.inj hx] at hk
      exact (Option.some.inj hk).symm
    · rw [hkept]
      exact List.take_eq_take_iff.mpr (by rw [length_flatMap_blockBytes]; omega)

/-- The host program of R234 and then that of R239 on its frame, on the core with any permitted ROM contents. -/
theorem roundTripsStreams (p : Parameters) : RoundTripsStreams (coreWith p).run p.rom := by
  intro s slen iv ps hr hb hlen hlt hag
  have hlay : FrameLayout (encryptStream p.rom s.rk slen iv ps) slen iv (cbcEncrypt p.rom s.rk iv ps) :=
    frameLayout_frameBytes ..
  have hcount : (cbcEncrypt p.rom s.rk iv ps).length = ps.length := length_cbcEncrypt ..
  have hsize : (encryptStream p.rom s.rk slen iv ps).length = 24 + 16 * ps.length := hcount ▸ hlay.length_eq
  obtain ⟨v, hrunE, hstream, hrkE, -, hreadsE⟩ := runsTo_encryptStream (p := p) ⟨hr, hb⟩ iv hlen
  obtain ⟨u, t, sts, hrunD, hd, hrk, hfb, hremain, herr, hreads⟩ :=
    runsTo_decryptStream_of_ok (p := p) hstream.ready (hsize ▸ hlt) hlay.frameLengthOk_eq
  rw [hlay.frameBlocks_eq] at hd
  have hcounts := hd.counts
  have hloop := hd.reads
  have hleft := hd.remain
  have hvalid := hd.valid
  rw [hremain, hlay.frameSlen_eq, hcount] at hcounts hleft hvalid
  rw [hrk, hrkE, hfb, hlay.frameIv_eq, cbcDecrypt_cbcEncrypt p.wellFormed, hreads, hreadsE] at hloop
  refine ⟨t.withAgenda [], u.status.toWord, sts, (hrunE.trans hrunD).run hag, length_of_validCounts hcounts, ?_, ?_,
    keptBytes_loopReads hcounts, hd.stream.mode, BitVec.eq_of_toNat_eq ?_, fun hne => ?_⟩
  · rw [statusErr_toWord, herr]
    rfl
  · simpa using hloop
  · exact hleft.trans (by rw [hlen]; simp; omega)
  · have hpos := List.length_pos_iff.mpr hne
    rw [getLastD_validCounts, if_neg (by omega)] at hvalid
    exact hvalid.trans (by omega)

/-- Settles O40: the host programs' steps, the loops by induction on the blocks; and D undoes E on each block. -/
theorem streamRoundTrip : Obligations.StreamRoundTrip :=
  ⟨core_run_eq ▸
      ⟨decryptsStreams ⟨Config.rom, rom_wellFormed⟩, roundTripsStreams ⟨Config.rom, rom_wellFormed⟩⟩,
    fun p => ⟨decryptsStreams p, roundTripsStreams p⟩⟩

end Sys2Proof.Machine

/-! SUPPORT. Proof of the statement of 45_control: NOP's completion and its frame. -/

namespace Sys2Proof.Machine

/-- NOP is a completion without error and no other write (45 R260, 30 R126). -/
theorem exec_nop (s : State) : exec .nop s = .next (s.complete .ok) := rfl

/-- Settles O41: NOP has no check, and its completion writes ERR, DONE and BUSY alone. -/
theorem nopCommand : Obligations.NopCommand :=
  ⟨runsAs_withFields .nop (by decide), fun s => ⟨_, exec_nop s, fun _ => rfl, fun _ => rfl, by simp [KeepsStream],
    by simp [KeepsHostSide], rfl, rfl, rfl⟩⟩

end Sys2Proof.Machine

/-! SUPPORT. Proofs of the statements of 60_exceptions: the code each command completes with, as the list of R272 gives it;
the interrupt level; and the steps of a system. -/

namespace Sys2Proof.Machine

/-! ## The code a command completes with (R272) -/

/-- Checks 4 to 7 of R272, in its order, for a command with this OP and LEN. -/
def operandError (op len : Byte) (s : State) : ErrCode :=
  if op ∈ blockLenOpcodes ∧ len ≠ 16#8 then .invalidBlockSize
  else if op = 0x1A#8 ∧ len ≠ 32#8 then .invalidKeySize
  else if op = 0x21#8 ∧ s.status.mode ≠ .enc ∨ op = 0x23#8 ∧ s.status.mode ≠ .dec then .sequenceError
  else if op = 0x22#8 ∧ s.flen.toNat < 24 then .frameTooShort
  else if op = 0x22#8 ∧ (s.flen.toNat - 24) % 16 ≠ 0 then .truncatedCiphertext
  else .ok

/-- The code of the command in CMD: checks 1 to 3 of R272 are the decoder's, the others the operands'. -/
def commandError (s : State) : ErrCode :=
  match decode s.cmd with
  | .error _ => .illegalCommand
  | .ok _ => operandError (fieldOp s.cmd) (fieldLen s.cmd) s

/-- A completion with code c, and when that is an error, of s as it was (R276; 30 R126). -/
def CompletesWith (r : Result) (c : ErrCode) (s : State) : Prop := ∃ u, r = .next (u.complete c) ∧ (c ≠ .ok → u = s)

section Checks

variable {op len : Byte} {s : State} {k : Result}

theorem completesWith_error (c : ErrCode) (s : State) : CompletesWith (.next (s.complete c)) c s := ⟨s, rfl, fun _ => rfl⟩

theorem completesWith_ok (u s : State) : CompletesWith (.next (u.complete .ok)) .ok s := ⟨u, rfl, (absurd rfl ·)⟩

theorem completesWith_withRoundKey {imm : Imm} {k : RKReg → Result} {c : ErrCode} (himm : imm.toNat ≤ 9)
    (hk : ∀ i, CompletesWith (k i) c s) : CompletesWith (withRoundKey imm s k) c s :=
  (withRoundKey_of_lt (imm := imm) (by omega) s k).symm ▸ hk _

theorem operandError_of_len_ne (hop : op ∈ blockLenOpcodes) (hlen : len ≠ 16#8) :
    operandError op len s = .invalidBlockSize := if_pos ⟨hop, hlen⟩

theorem completesWith_withBlockLen (hop : op ∈ blockLenOpcodes) (hk : CompletesWith k (operandError op 16#8 s) s) :
    CompletesWith (withBlockLen len s k) (operandError op len s) s := by
  by_cases hlen : len = 16#8
  · rwa [withBlockLen_of_eq hlen, hlen]
  · rw [withBlockLen_of_ne hlen, operandError_of_len_ne hop hlen]
    exact completesWith_error _ s

theorem operandError_expand : operandError 0x1A#8 len s = if len = 32#8 then .ok else .invalidKeySize := by
  simp [operandError, blockLenOpcodes]

theorem operandError_cbceBlock :
    operandError 0x21#8 16#8 s = if s.status.mode = .enc then .ok else .sequenceError := by simp [operandError]

theorem operandError_cbcdBlock :
    operandError 0x23#8 16#8 s = if s.status.mode = .dec then .ok else .sequenceError := by simp [operandError]

theorem operandError_cbcdStart :
    operandError 0x22#8 16#8 s = if s.flen.toNat < 24 then .frameTooShort
      else if (s.flen.toNat - 24) % 16 ≠ 0 then .truncatedCiphertext else .ok := by simp [operandError]

theorem operandError_of_noLen (hop : op ∈ noLenOpcodes) : operandError op len s = .ok := by
  fin_cases hop <;> simp [operandError, blockLenOpcodes]

/-- At LEN 16 a command whose later checks pass has no error. -/
theorem operandError_of_passed (hop : op ∈ blockLenOpcodes) (henc : op = 0x21#8 → s.status.mode = .enc)
    (hdec : op = 0x23#8 → s.status.mode = .dec)
    (hframe : op = 0x22#8 → 24 ≤ s.flen.toNat ∧ (s.flen.toNat - 24) % 16 = 0) : operandError op 16#8 s = .ok := by
  have hkey : op ≠ 0x1A#8 := by
    rintro rfl
    exact absurd hop (by decide)
  have hmode : ¬ (op = 0x21#8 ∧ s.status.mode ≠ .enc ∨ op = 0x23#8 ∧ s.status.mode ≠ .dec) := by tauto
  have hshort : ¬ (op = 0x22#8 ∧ s.flen.toNat < 24) := fun ⟨h, hlt⟩ => absurd (hframe h).1 (by omega)
  have htrunc : ¬ (op = 0x22#8 ∧ (s.flen.toNat - 24) % 16 ≠ 0) := fun ⟨h, hne⟩ => hne (hframe h).2
  rw [operandError, if_neg (by simp), if_neg (by simp [hkey]), if_neg hmode, if_neg hshort, if_neg htrunc]

theorem completesWith_withKeyLen (u : State) :
    CompletesWith (withKeyLen len s (.next (u.complete .ok))) (operandError 0x1A#8 len s) s := by
  rw [operandError_expand, withKeyLen]
  split
  · exact completesWith_ok u s
  · exact completesWith_error _ s

theorem completesWith_withMode (m : Mode) (u : State) :
    CompletesWith (withMode m s (.next (u.complete .ok))) (if s.status.mode = m then .ok else .sequenceError) s := by
  unfold withMode
  split
  · exact completesWith_ok u s
  · exact completesWith_error _ s

theorem completesWith_withFrame (u : State) :
    CompletesWith (withFrame s.flen s (.next (u.complete .ok))) (operandError 0x22#8 16#8 s) s := by
  rw [operandError_cbcdStart, withFrame]
  split
  · exact completesWith_error _ s
  · split
    · exact completesWith_error _ s
    · exact completesWith_ok u s

end Checks

/-- The checks of a decoded command are R272's, in its order. -/
theorem exec_completesWith {i : Instr} {w : Word} (hwf : (i.withFields w).wellFormed = true) (s : State) :
    CompletesWith (exec (i.withFields w) s) (operandError i.opcode (fieldLen w) s) s := by
  have himm := (wellFormed_withFields_iff w i).mp hwf
  cases i with
  | nop | rcon | cbcAbort =>
    rw [operandError_of_noLen (by simp [noLenOpcodes, Instr.opcode])]
    exact completesWith_ok _ s
  | rkst =>
    rw [operandError_of_noLen (by simp [noLenOpcodes, Instr.opcode]), Instr.withFields, exec_rkst]
    exact completesWith_withRoundKey (himm (by simp [roundKeyOpcodes, Instr.opcode])) fun _ => completesWith_ok _ s
  | round | iround | rkld =>
    simp only [Instr.withFields, exec_round, exec_iround, exec_rkld]
    exact completesWith_withRoundKey (himm (by simp [roundKeyOpcodes, Instr.opcode])) fun _ =>
      completesWith_withBlockLen (by simp [blockLenOpcodes, Instr.opcode]) (completesWith_ok _ s)
  | expand => exact completesWith_withKeyLen _
  | cbceBlock =>
    exact completesWith_withBlockLen (by simp [blockLenOpcodes, Instr.opcode])
      (operandError_cbceBlock ▸ completesWith_withMode .enc _)
  | cbcdBlock =>
    exact completesWith_withBlockLen (by simp [blockLenOpcodes, Instr.opcode])
      (operandError_cbcdBlock ▸ completesWith_withMode .dec _)
  | cbcdStart =>
    exact completesWith_withBlockLen (by simp [blockLenOpcodes, Instr.opcode]) (completesWith_withFrame _)
  | _ => exact completesWith_withBlockLen (by simp [blockLenOpcodes, Instr.opcode]) (completesWith_ok _ s)

/-- The command in CMD completes with its code of R272 (30 R119, R126). -/
theorem runCommand_completesWith (s : State) : CompletesWith (runCommand s) (commandError s) s := by
  unfold commandError runCommand
  split
  · next e hd =>
    rw [runCommandBy_of_error exec hd]
    exact completesWith_error _ s
  · next i hd =>
    obtain ⟨-, hop, hwf, hfields⟩ := decode_eq_ok_iff.mp hd
    have hexec := exec_completesWith (i := i) (w := s.cmd) (hfields.symm ▸ hwf) s
    rwa [hfields, ← hop, ← runCommandBy_of_ok exec hd] at hexec

theorem runCommand_err {s t : State} (h : runCommand s = .next t) : t.status.err = commandError s := by
  obtain ⟨u, hu, -⟩ := runCommand_completesWith s
  rw [hu] at h
  exact Host.Outcome.next.inj h ▸ complete_err u _

/-- Settles O47: a completion with an error is of the state as it was. -/
theorem errorsArePrecise : Obligations.ErrorsArePrecise := by
  intro s t h herr
  obtain ⟨u, hu, hs⟩ := runCommand_completesWith s
  obtain rfl := Host.Outcome.next.inj (h.symm.trans hu)
  obtain rfl := hs herr
  rfl

theorem failsWith_of_commandError {s : State} {c : ErrCode} (h : commandError s = c) (hc : c ≠ .ok) :
    FailsWith (runCommand s) c s := by
  obtain ⟨u, hu, hs⟩ := runCommand_completesWith s
  rw [hu, h, hs (h ▸ hc)]
  exact failsWith_complete s c

theorem succeeds_of_commandError {s : State} (h : commandError s = .ok) :
    ∃ t, runCommand s = .next t ∧ t.status.err = .ok := by
  obtain ⟨t, ht⟩ := runCommand_next s
  exact ⟨t, ht, (runCommand_err ht).trans h⟩

/-- A word the decoder turns down fails with IllegalCommand (30 R113, R115, R117). -/
theorem commandError_of_error {s : State} (h : ∃ e, decode s.cmd = .error e) : commandError s = .illegalCommand := by
  obtain ⟨e, he⟩ := h
  simp [commandError, he]

theorem commandError_of_ok {s : State} (h : ¬ ∃ e, decode s.cmd = .error e) :
    commandError s = operandError (fieldOp s.cmd) (fieldLen s.cmd) s := by
  unfold commandError
  split
  · next e hd => exact absurd ⟨e, hd⟩ h
  · rfl

theorem not_reservedOpcode_of_mem : ∀ op ∈ 0x1A#8 :: noLenOpcodes ++ blockLenOpcodes, ¬ ReservedOpcode op := by
  unfold ReservedOpcode
  decide

/-- RKST is the round-key command without a LEN check (30 R116, R117). -/
theorem eq_rkst_of_noLen_of_roundKey : ∀ op ∈ noLenOpcodes, op ∈ roundKeyOpcodes → op = 0x15#8 := by decide

/-- Settles O45: the code of R272 decides, and each clause is one line of its list. -/
theorem errorPriority : Obligations.ErrorPriority := by
  intro s
  have rejected := fun h => failsWith_of_commandError (commandError_of_error ((rejectedWords s.cmd).mpr h)) (by decide)
  refine ⟨fun hbit => rejected (or_assoc.mp (.inl hbit)), fun h19 h23 => ?_⟩
  have accepted (hop : fieldOp s.cmd ∈ 0x1A#8 :: noLenOpcodes ++ blockLenOpcodes)
      (himm : fieldOp s.cmd ∈ roundKeyOpcodes → (fieldImm s.cmd).toNat ≤ 9) :
      commandError s = operandError (fieldOp s.cmd) (fieldLen s.cmd) s := by
    refine commandError_of_ok fun herr => ?_
    rcases (rejectedWords s.cmd).mp herr with hb | hb | hres | ⟨hmem, hgt⟩
    · exact absurd (h19.symm.trans hb) (by decide)
    · exact absurd (h23.symm.trans hb) (by decide)
    · exact not_reservedOpcode_of_mem _ hop hres
    · exact absurd (himm hmem) (by omega)
  refine ⟨fun hres => rejected (.inr (.inr (.inl hres))), fun hmem himm => rejected (.inr (.inr (.inr ⟨hmem, himm⟩))),
    fun hop hlen => ?_, fun himm hop => ⟨fun hlen => ?_, fun hlen => ?_⟩, fun hop hlen => ?_, fun hop himm => ?_⟩
  · have hcode := accepted (by simp [hop]) (by simp [hop, roundKeyOpcodes])
    rw [hop, operandError_expand, if_neg hlen] at hcode
    exact failsWith_of_commandError hcode (by decide)
  · have hcode := accepted (by simp [hop]) himm
    rw [operandError_of_len_ne hop hlen] at hcode
    exact failsWith_of_commandError hcode (by decide)
  · have hcode := accepted (by simp [hop]) himm
    rw [hlen] at hcode
    refine ⟨fun hop hmode => ?_, fun hop hmode => ?_, fun hop hshort => ?_, fun hop h24 h16 => ?_, fun henc hdec hframe => ?_⟩
    · rw [hop, operandError_cbceBlock, if_neg hmode] at hcode
      exact failsWith_of_commandError hcode (by decide)
    · rw [hop, operandError_cbcdBlock, if_neg hmode] at hcode
      exact failsWith_of_commandError hcode (by decide)
    · rw [hop, operandError_cbcdStart, if_pos hshort] at hcode
      exact failsWith_of_commandError hcode (by decide)
    · rw [hop, operandError_cbcdStart, if_neg (by omega), if_pos h16] at hcode
      exact failsWith_of_commandError hcode (by decide)
    · exact succeeds_of_commandError (hcode.trans (operandError_of_passed hop henc hdec hframe))
  · have hcode := accepted (by simp [hop]) (by simp [hop, roundKeyOpcodes])
    rw [hop, operandError_expand, if_pos hlen] at hcode
    exact succeeds_of_commandError hcode
  · have hcode := accepted (by simp [hop]) fun hmem => himm (eq_rkst_of_noLen_of_roundKey _ hop hmem)
    exact succeeds_of_commandError (hcode.trans (operandError_of_noLen hop))

section Codes

variable {s : State} {codes : List Byte}

/-- IllegalCommand aside, a command leaves what the checks of its operands leave. -/
theorem code_commandError_mem (hillegal : 5#8 ∈ codes)
    (h : (operandError (fieldOp s.cmd) (fieldLen s.cmd) s).code ∈ codes) : (commandError s).code ∈ codes := by
  by_cases hd : ∃ e, decode s.cmd = .error e
  · rwa [commandError_of_error hd]
  · rwa [commandError_of_ok hd]

/-- InvalidBlockSize aside, a LEN-16 command leaves what it leaves at LEN 16. -/
theorem code_operandError_mem {op len : Byte} (hop : op ∈ blockLenOpcodes) (hsize : 1#8 ∈ codes)
    (h : (operandError op 16#8 s).code ∈ codes) : (operandError op len s).code ∈ codes := by
  by_cases hlen : len = 16#8
  · rwa [hlen]
  · rwa [operandError_of_len_ne hop hlen]

end Codes

/-- Settles O46: each command leaves IllegalCommand, InvalidBlockSize if its LEN must be 16, and what its further checks
raise. -/
theorem errorCodesPerCommand : Obligations.ErrorCodesPerCommand := by
  intro s t h
  rw [runCommand_err h]
  refine ⟨fun hop => ?_, fun hop h21 h22 h23 => ?_, fun hop => ?_, fun hop => ?_, fun hop => ?_, fun hres => ?_⟩
  · refine code_commandError_mem (by decide) ?_
    rw [operandError_of_noLen hop]
    decide
  · refine code_commandError_mem (by decide) (code_operandError_mem hop (by decide) ?_)
    rw [operandError_of_passed hop (absurd · h21) (absurd · h23) (absurd · h22)]
    decide
  · refine code_commandError_mem (by decide) ?_
    rw [hop, operandError_expand]
    split <;> decide
  · refine code_commandError_mem (by decide) ?_
    rcases hop with hop | hop
    · rw [hop]
      refine code_operandError_mem (by decide) (by decide) ?_
      rw [operandError_cbceBlock]
      split <;> decide
    · rw [hop]
      refine code_operandError_mem (by decide) (by decide) ?_
      rw [operandError_cbcdBlock]
      split <;> decide
  · refine code_commandError_mem (by decide) ?_
    rw [hop]
    refine code_operandError_mem (by decide) (by decide) ?_
    rw [operandError_cbcdStart]
    split
    · decide
    · split <;> decide
  · rw [commandError_of_error ((rejectedWords s.cmd).mpr (.inr (.inr (.inl hres))))]
    rfl

/-! ## The interrupt (R274, R275) -/

/-- Settles O56: IRQ is computed from IE, which no completion writes, and DONE, which every completion sets. -/
theorem interruptLevel : Obligations.InterruptLevel := by
  refine ⟨fun s => Bool.and_eq_true_iff, rfl, fun s t h => ?_, fun s w => ⟨fun hb => ?_, fun hw => ?_, fun hw => ?_,
    fun off hb hctrl hstatus => ?_⟩⟩
  · obtain ⟨u, c, ⟨-, -, hctrl, -⟩, -, rfl⟩ := runCommand_eq_complete h
    simp [State.irq, hctrl]
  · rw [portWrite_of_idle hb]
    exact Bool.and_false _
  · rw [portWrite_of_writable rfl]
    change (s.acknowledge w).irq = false
    simp [State.irq, Status.writeOneToClear, hw]
  · rw [portWrite_of_writable rfl]
    change (s.writeCtrl w).irq = false
    rw [State.irq, writeCtrl_ctrl, Ctrl.ofWord, hw, Bool.false_and]
  · rw [portWrite_of_not_writable hb]
    · rfl
    · rw [← Bool.not_eq_true, windowReg, writableWhileBusy_iff]
      omega

/-! ## Systems (R288) -/

/-- A step of a system is a step of the core with that index, or none where there is no such core. -/
theorem stepAt_cases {p : Parameters} {sys sys' : System} {k : Nat} (h : sys.stepAt p k = .next sys') :
    (sys.cores[k]? = none ∧ sys' = sys) ∨
      ∃ s t, sys.cores[k]? = some s ∧ stepWith p.rom s = .next t ∧ sys' = sys.setCore k t := by
  unfold System.stepAt at h
  split at h
  · next hk => exact .inl ⟨hk, (Host.Outcome.next.inj h).symm⟩
  · next s hk =>
    split at h
    · next t ht => exact .inr ⟨s, t, hk, ht, (Host.Outcome.next.inj h).symm⟩
    · cases h
    · cases h

/-- Settles O60: the step replaces core k in the list of the system's cores, and no other. -/
theorem instancesIndependent : Obligations.InstancesIndependent := by
  intro p sys sys' k h
  have hone : 1 ≤ sys.nInst := Nat.succ_pos _
  rcases stepAt_cases h with ⟨hnone, rfl⟩ | ⟨s, t, hs, ht, rfl⟩
  · exact ⟨hone, rfl, fun _ _ => rfl, fun s hs => by simp [hnone] at hs⟩
  · obtain ⟨hk, -⟩ := List.getElem?_eq_some_iff.mp hs
    refine ⟨hone, by simp [System.nInst], fun j hj => ?_, fun s' hs' => ⟨t, ?_, ?_⟩⟩
    · rw [cores_setCore, List.getElem?_set_ne hj.symm]
    · rwa [← Option.some.inj (hs.symm.trans hs')]
    · rw [cores_setCore, List.getElem?_set_self hk]

end Sys2Proof.Machine

/-! SUPPORT. Proof of the statement of 70_reset_and_hazards: the turns while reset is asserted, and what its assertion and its
release leave. -/

namespace Sys2Proof.Machine

/-- While reset is asserted the port accepts no access (70_reset R300). -/
theorem hostTurn_of_reset (a : Access) {s : State} (hr : s.rstN = false) : hostTurn a s = s := by simp [hostTurn, hr]

theorem releaseTurn_of_reset {s : State} (hr : s.rstN = false) : releaseTurn s = s.releaseReset := by simp [releaseTurn, hr]

/-- The assertion writes BUSY and the reset input, so V, RK and the stream state stay as they were (log 9). -/
theorem assertReset_keeps (s : State) : KeepsV s s.assertReset ∧ KeepsRK s s.assertReset ∧ KeepsStream s s.assertReset :=
  ⟨readV_assertReset s, readRK_assertReset s, rfl, rfl, rfl, rfl, rfl⟩

theorem releaseReset_regRead_status (s : State) : s.releaseReset.regRead .status = 0 := by
  rw [State.regRead, releaseReset_status]
  decide

/-- IE = 0 after a release, so IRQ is low (10_state R55). -/
theorem releaseReset_irq (s : State) : s.releaseReset.irq = false := rfl

/-- Settles O57: the agenda's turn is taken from s without that turn; asserting keeps the registers, the asserted reset
stops the sequencer and the port, and releasing writes the values of 10_state R55. -/
theorem resetSequence : Obligations.ResetSequence := by
  refine fun s a rest => ⟨fun hag => ?_, fun hr => ?_⟩
  · obtain ⟨hv, hrk, hstream⟩ := assertReset_keeps (s.withAgenda rest)
    exact ⟨_, step_of_agenda_cons hag, assertReset_rstN _, rfl, hv, hrk, hstream, rfl⟩
  · have hrst : (s.withAgenda rest).rstN = false := hr
    refine ⟨fun hag => ?_, fun hag => ?_, fun hag => ⟨(s.withAgenda rest).releaseReset, ?_, releaseReset_slen _,
      releaseReset_flen _, releaseReset_remain _, releaseReset_nblk _, rfl, releaseReset_regRead_status _,
      releaseReset_cmd _, releaseReset_irq _, rfl, releaseReset_rstN _, releaseReset_agenda _⟩⟩
    · exact (step_of_agenda_cons hag).trans (sequencerTurnBy_of_reset exec hrst)
    · exact (step_of_agenda_cons hag).trans (congrArg _ (hostTurn_of_reset a hrst))
    · exact (step_of_agenda_cons hag).trans (congrArg _ (releaseTurn_of_reset hrst))

end Sys2Proof.Machine

/-! SUPPORT. Proof of the statement of 95_test_vectors section 3.9: the table's legal words are the assembled words of
well-formed instructions, and one check of the decoder turns down each of the others. -/

namespace Sys2Proof

open Machine

theorem decode_of_eq_encode {w : Word} {i : Instr} (hw : w = encode i) (hwf : i.wellFormed = true) : decode w = .ok i :=
  hw ▸ decodeOfEncode i hwf

theorem decode_of_reservedOpcode {w : Word} (hb : reservedBitSet w = false) (hop : ReservedOpcode (fieldOp w)) :
    decode w = .error .reservedOpcode := by
  rw [decode_of_not_reservedBit hb, decodeOpcode_of_reserved hop]

/-- A round-key command with IMM > 9 is turned down by the decoder's third check (30_encoding R117, R120). -/
theorem decode_of_roundKeyIndex {w : Word} {i : Instr} (hb : reservedBitSet w = false) (hop : fieldOp w = i.opcode)
    (hrk : i.opcode ∈ roundKeyOpcodes) (himm : 9 < (fieldImm w).toNat) : decode w = .error .roundKeyIndex := by
  have hwf : ¬ (i.withFields w).wellFormed = true := fun h =>
    not_le.mpr himm ((wellFormed_withFields_iff w i).mp h hrk)
  rw [decode_of_not_reservedBit hb, decodeOpcode_of_opcode hop, if_neg hwf]

/-- Settles O6: each of the nine legal words is its instruction's assembled word, and each of the other three fails one of
the decoder's checks: bit 19 is set, OP 0xFF is no command's, and ROUND has IMM 10. -/
theorem specWordsDecode : Obligations.SpecWordsDecode := by
  have hop : ReservedOpcode (fieldOp 0x000000FF#32) := by
    unfold ReservedOpcode
    decide
  refine ⟨?_, ?_, ?_, ?_, ?_, ?_, ?_, ?_, ?_, decode_of_reservedBit (by decide), decode_of_reservedOpcode (by decide) hop,
    decode_of_roundKeyIndex (i := .round 16 1 0 10) (by decide) (by decide) (by decide) (by decide)⟩
  all_goals exact decode_of_eq_encode (by decide) rfl

end Sys2Proof
